-- ==== Sys2Proof/Word.lean ====
section
/-! DEFINITION. The word types of the block (00_scope.md R7): bytes, 16-bit and 32-bit patterns, transport statuses, command words. -/

namespace Sys2Proof

/-- One byte: a BUF cell, a header byte, a byte on one of the byte ports. -/
abbrev Byte := BitVec 8

/-- A signed transport status or return code: 16 bits, the source's i16 (R6); STATUS_W says how many a block uses. -/
abbrev Status := BitVec 16

/-- A 40-bit command word (R55). -/
abbrev CommandWord := BitVec 40

end Sys2Proof
end

