-- ==== Sys2Proof/Config.lean ====
section
/-! DEFINITION. The parameters of R6, and the free values. A Config is plain data held in a
field of State that no step writes, so a claim about every state is a claim about every parameter value. -/

namespace Sys2Proof

/-- The order of the bytes of a 16- or 32-bit value in BUF (R6 BYTE_ORDER, R37). -/
inductive ByteOrder where
  | big
  | little
deriving DecidableEq, Repr

/-- The seven errors (R106), in the order of the spec's list. -/
inductive ErrorKind where
  | encodingError
  | transmitIncomplete
  | missingStart
  | missingStop
  | frameTooLong
  | checksumMismatch
  | executionFailure
deriving DecidableEq, Repr

/-- The parameter ERRCODE of R6 and R106: the return code of each error. -/
structure ErrorCodes where
  encodingError : Status
  transmitIncomplete : Status
  missingStart : Status
  missingStop : Status
  frameTooLong : Status
  checksumMismatch : Status
  executionFailure : Status
deriving DecidableEq, Repr

/-- The parameters of R6, one field each. A register or operand whose width is a parameter is held in a bit vector as
wide as its field of the command word, as CAPACITY's limit or as the source's i16 allows; what a width does is said at
its field, and which values are legal by Config.wf (log entry 6). -/
structure Config where
  /-- CAPACITY, the number of bytes in BUF; R6 asks for 3 to 65535. -/
  capacity : Nat
  /-- OFFSET_W: OFFSET goes up to CAPACITY, so CAPACITY must be below 2^OFFSET_W (D5). -/
  offsetW : Nat
  /-- BYTE_ORDER. -/
  byteOrder : ByteOrder
  /-- FLOAT_W: how many bytes `add_float` appends (D7, G2). -/
  floatW : Nat
  /-- LEN_W: the operand of `add_bytes` must be below 2^LEN_W (D10, Instr.wf). -/
  lenW : Nat
  /-- TIMEOUT_W: `max_timeout_ms`, and with it BUDGET, must be below 2^TIMEOUT_W (D16, Instr.wf). -/
  timeoutW : Nat
  /-- EXPLEN_W: `expected_data_length`, and with it EXPLEN, must be below 2^EXPLEN_W (D16, Instr.wf). -/
  expLenW : Nat
  /-- STATUS_W: a transport status and a return code lie in the signed range of this width (signedFits). -/
  statusW : Nat
  /-- ERRCODE. -/
  errorCodes : ErrorCodes
  /-- MAX_PAYLOAD: the largest payload a host sends; the block tests it nowhere (N4). -/
  maxPayload : Nat
deriving DecidableEq, Repr

/-- The reference assignment of R106, -1 to -7 in the order of the list. -/
def ErrorCodes.reference : ErrorCodes where
  encodingError := -1
  transmitIncomplete := -2
  missingStart := -3
  missingStop := -4
  frameTooLong := -5
  checksumMismatch := -6
  executionFailure := -7

/-- The reference values of R6: the values every vector of 95_test_vectors.md uses. -/
def Config.reference : Config where
  capacity := 258
  offsetW := 16
  byteOrder := .big
  floatW := 4
  lenW := 16
  timeoutW := 16
  expLenW := 8
  statusW := 16
  errorCodes := ErrorCodes.reference
  maxPayload := 255

/-- What a read of a BUF byte that nothing has written since reset returns (R13, R30, U13): a FREE VALUE, no body, of
the number of reset inputs so far and the address. DESIGN CHOICE: it does not change between two reads (log entry 7). -/
opaque Config.unwritten : Nat → Nat → Byte

end Sys2Proof
end

