-- ==== Sys2Proof/Syntax.lean ====
section
/-! DEFINITION. The eleven operations of the block (R2, R56), one constructor per row of opcode_table.json, with the
typed operands of R57. -/

namespace Sys2Proof

/-- An operation as a command word carries it. The data bytes of `add_bytes` come on the data port (R55), not in the
word, and are read from State. -/
inductive Instr where
  | addU8 (v : BitVec 8)
  | addBool (v : BitVec 1)
  | addU16 (v : BitVec 16)
  | addI16 (v : BitVec 16)
  | addU32 (v : BitVec 32)
  | addI32 (v : BitVec 32)
  | addFloat (v : BitVec 32)
  | addBytes (length : BitVec 16)
  | beginStream (command address dataLength : Byte)
  | writeRequest
  | readResponse (expectedDataLength : Byte) (maxTimeoutMs : BitVec 16)
deriving DecidableEq, Repr

end Sys2Proof
end

