-- ==== Sys2Proof/WellFormed.lean ====
section
/-! DEFINITION. Well-formedness: of the parameters (R6, R106), of an operation under the parameters, and of what the
host issues (R71, R132). -/

namespace Sys2Proof

/-- How many data-port bytes an operation takes: `length` for `add_bytes`, none otherwise (R55). -/
def Instr.dataCount : Instr → Nat
  | .addU8 _ => 0
  | .addBool _ => 0
  | .addU16 _ => 0
  | .addI16 _ => 0
  | .addU32 _ => 0
  | .addI32 _ => 0
  | .addFloat _ => 0
  | .addBytes length => length.toNat
  | .beginStream _ _ _ => 0
  | .writeRequest => 0
  | .readResponse _ _ => 0

/-- What the host issues: an operation and the bytes it presents on the data port for it. -/
structure Issue where
  instr : Instr
  data : List Byte
deriving DecidableEq, Repr

/-- The host's duty of R71 and R132: exactly `length` data bytes for `add_bytes`, none for the others. -/
def Issue.wf (i : Issue) : Bool := i.data.length == i.instr.dataCount

/-- The codes in the order of R106's list. -/
def ErrorCodes.toList (c : ErrorCodes) : List Status :=
  [c.encodingError, c.transmitIncomplete, c.missingStart, c.missingStop, c.frameTooLong, c.checksumMismatch,
    c.executionFailure]

/-- R106: ERRCODE is an injective map into the negative 16-bit integers. -/
def ErrorCodes.wf (c : ErrorCodes) : Bool := c.toList.all (fun s => s.slt 0) && decide c.toList.Nodup

/-- The status lies in the signed range of w bits (R6 STATUS_W). -/
def signedFits (w : Nat) (s : Status) : Bool :=
  decide (-(2 ^ (w - 1) : Int) ≤ s.toInt) && decide (s.toInt < (2 ^ (w - 1) : Int))

/-- R6: 3 <= CAPACITY <= 65535; OFFSET_W holds CAPACITY; a float has a byte; STATUS_W is at most the source's 16 and
holds every code; a payload length is one byte; ERRCODE is as R106 asks. -/
def Config.wf (c : Config) : Bool :=
  decide (3 ≤ c.capacity) && decide (c.capacity ≤ 65535) && decide (c.capacity < 2 ^ c.offsetW) &&
    decide (1 ≤ c.floatW) && decide (c.statusW ≤ 16) && c.errorCodes.toList.all (signedFits c.statusW) &&
    decide (c.maxPayload ≤ 255) && c.errorCodes.wf

/-- The operation's operands fit the widths that are parameters: LEN_W, EXPLEN_W, TIMEOUT_W. The other operands have
exactly their widths of R57. -/
def Instr.wf (c : Config) : Instr → Bool
  | .addU8 _ => true
  | .addBool _ => true
  | .addU16 _ => true
  | .addI16 _ => true
  | .addU32 _ => true
  | .addI32 _ => true
  | .addFloat _ => true
  | .addBytes length => decide (length.toNat < 2 ^ c.lenW)
  | .beginStream _ _ _ => true
  | .writeRequest => true
  | .readResponse expectedDataLength maxTimeoutMs =>
    decide (expectedDataLength.toNat < 2 ^ c.expLenW) && decide (maxTimeoutMs.toNat < 2 ^ c.timeoutW)

end Sys2Proof
end

