-- ==== Sys2Proof/Decode.lean ====
section
/-! DEFINITION. The command word (R55 to R58): the decoder, total on all 40-bit words and rejecting by name, then the
encoder, the opcode table, and the host's reading of a table word. -/

namespace Sys2Proof

/-- Why a command word is illegal (R58). -/
inductive Illegal where
  /-- op is 0x0 or 0xC to 0xF. -/
  | reservedOp (op : BitVec 4)
  /-- the `zero` field is not 0. -/
  | zeroField (z : BitVec 4)
  /-- a bit of `arg` that R57 lists as unused for this op is 1. -/
  | unusedBits (op : BitVec 4)
deriving DecidableEq, Repr

/-- The field op = cw[39:36] (R55). -/
def opField (cw : CommandWord) : BitVec 4 := cw.extractLsb' 36 4

/-- The field zero = cw[35:32] (R55). -/
def zeroFieldOf (cw : CommandWord) : BitVec 4 := cw.extractLsb' 32 4

/-- The field arg = cw[31:0] (R55). -/
def argField (cw : CommandWord) : BitVec 32 := cw.extractLsb' 0 32

/-- How many low bits of `arg` the operation uses; the bits above must be 0 (R57). -/
def usedBits (op : BitVec 4) : Nat :=
  match op.toNat with
  | 1 => 8
  | 2 => 1
  | 3 => 16
  | 4 => 16
  | 5 => 32
  | 6 => 32
  | 7 => 32
  | 8 => 16
  | 9 => 24
  | 10 => 0
  | 11 => 24
  | _ => 0

/-- The operation of a legal op code with its operand fields (R56, R57); none for a reserved op. -/
def operation (op : BitVec 4) (arg : BitVec 32) : Option Instr :=
  match op.toNat with
  | 1 => some (.addU8 (arg.extractLsb' 0 8))
  | 2 => some (.addBool (arg.extractLsb' 0 1))
  | 3 => some (.addU16 (arg.extractLsb' 0 16))
  | 4 => some (.addI16 (arg.extractLsb' 0 16))
  | 5 => some (.addU32 arg)
  | 6 => some (.addI32 arg)
  | 7 => some (.addFloat arg)
  | 8 => some (.addBytes (arg.extractLsb' 0 16))
  | 9 => some (.beginStream (arg.extractLsb' 0 8) (arg.extractLsb' 8 8) (arg.extractLsb' 16 8))
  | 10 => some .writeRequest
  | 11 => some (.readResponse (arg.extractLsb' 0 8) (arg.extractLsb' 8 16))
  | _ => none

/-- The decoder of R55 to R58. -/
def decode (cw : CommandWord) : Except Illegal Instr :=
  match operation (opField cw) (argField cw) with
  | none => .error (.reservedOp (opField cw))
  | some i =>
    if zeroFieldOf cw ≠ 0 then .error (.zeroField (zeroFieldOf cw))
    else if 2 ^ usedBits (opField cw) ≤ (argField cw).toNat then .error (.unusedBits (opField cw))
    else .ok i

/-- The decoder of a block with these parameters: the bits of an operand field above the operand's width are unused
bits, which R58 asks to be 0 (DESIGN CHOICE, log entry 6). At the reference widths it is `decode`. -/
def decodeFor (c : Config) (cw : CommandWord) : Except Illegal Instr :=
  match decode cw with
  | .error e => .error e
  | .ok i => if i.wf c then .ok i else .error (.unusedBits (opField cw))

/-- The op code of each operation (R56). -/
def opCode : Instr → BitVec 4
  | .addU8 _ => 0x1
  | .addBool _ => 0x2
  | .addU16 _ => 0x3
  | .addI16 _ => 0x4
  | .addU32 _ => 0x5
  | .addI32 _ => 0x6
  | .addFloat _ => 0x7
  | .addBytes _ => 0x8
  | .beginStream _ _ _ => 0x9
  | .writeRequest => 0xA
  | .readResponse _ _ => 0xB

/-- The operand field of each operation (R57), unused bits 0. -/
def operandField : Instr → BitVec 32
  | .addU8 v => v.setWidth 32
  | .addBool v => v.setWidth 32
  | .addU16 v => v.setWidth 32
  | .addI16 v => v.setWidth 32
  | .addU32 v => v
  | .addI32 v => v
  | .addFloat v => v
  | .addBytes length => length.setWidth 32
  | .beginStream command address dataLength => 0#8 ++ dataLength ++ address ++ command
  | .writeRequest => 0
  | .readResponse expectedDataLength maxTimeoutMs => 0#8 ++ maxTimeoutMs ++ expectedDataLength

/-- The command word of an operation: op, the zero field, arg (R55). -/
def encode (i : Instr) : CommandWord := opCode i ++ 0#4 ++ operandField i

/-- One row of opcode_table.json: the bits of `mask` must read `pattern`. -/
structure OpRow where
  mnemonic : String
  pattern : CommandWord
  mask : CommandWord
deriving DecidableEq, Repr

/-- The row of opcode_table.json of each operation. -/
def rowOf : Instr → OpRow
  | .addU8 _ => ⟨"add_u8", 0x1000000000, 0xFFFFFFFF00⟩
  | .addBool _ => ⟨"add_bool", 0x2000000000, 0xFFFFFFFFFE⟩
  | .addU16 _ => ⟨"add_u16", 0x3000000000, 0xFFFFFF0000⟩
  | .addI16 _ => ⟨"add_i16", 0x4000000000, 0xFFFFFF0000⟩
  | .addU32 _ => ⟨"add_u32", 0x5000000000, 0xFF00000000⟩
  | .addI32 _ => ⟨"add_i32", 0x6000000000, 0xFF00000000⟩
  | .addFloat _ => ⟨"add_float", 0x7000000000, 0xFF00000000⟩
  | .addBytes _ => ⟨"add_bytes", 0x8000000000, 0xFFFFFF0000⟩
  | .beginStream _ _ _ => ⟨"begin_stream", 0x9000000000, 0xFFFF000000⟩
  | .writeRequest => ⟨"write_request", 0xA000000000, 0xFFFFFFFFFF⟩
  | .readResponse _ _ => ⟨"read_response", 0xB000000000, 0xFFFF000000⟩

/-- The eleven rows of opcode_table.json, in its order. -/
def opcodeTable : List OpRow :=
  [rowOf (.addU8 0), rowOf (.addBool 0), rowOf (.addU16 0), rowOf (.addI16 0), rowOf (.addU32 0), rowOf (.addI32 0),
    rowOf (.addFloat 0), rowOf (.addBytes 0), rowOf (.beginStream 0 0 0), rowOf .writeRequest, rowOf (.readResponse 0 0)]

/-- Does the word match the row? -/
def OpRow.matches (r : OpRow) (cw : CommandWord) : Bool := cw &&& r.mask == r.pattern

/-- The host's reading of a table word: bit 0 is the least significant bit of the one 40-bit command word, and bits at
or above nbits are 0. -/
def decodeTableWord (nbits w : Nat) : Option Instr :=
  match decode (BitVec.ofNat 40 (w % 2 ^ nbits)) with
  | .ok i => some i
  | .error _ => none

end Sys2Proof
end

