-- ==== Sys2Proof/Machine/State.lean ====
section
/-! DEFINITION. The state of the block (10_state.md R11 to R29), the agents' side of its ports, the reasons a step can
stop, and the state right after reset. -/

namespace Sys2Proof.Machine

/-- BUF as a list of (address, byte), addresses strictly rising (Memory.wf). An address that is not listed has no
written value: no operation since reset has stored there. -/
abbrev Memory := List Host.Cell

/-- IO: which port the last transfer operation bound (R17). -/
inductive IoBinding where
  | unbound
  | writer
  | reader
deriving DecidableEq, Repr

/-- MODE: where the state stands in the lifecycle (R21). -/
inductive Mode where
  | unbound
  | build
  | sent
  | received
  | invalid
deriving DecidableEq, Repr

/-- FAULT: the sticky fault register (R24). -/
inductive FaultCode where
  | noFault
  | illegalOp
  | misuse
  | bufferOverrun
deriving DecidableEq, Repr

/-- PHASE: the position of the sequencer (R22). -/
inductive Phase where
  | idle
  | copy
  | txCheck
  | txStart
  | txBody
  | txCsum
  | txStop
  | rxP1
  | rxP2
  | rxP3
  | rxP4
  | rxP5
  | rxP6
  | rxP7
deriving DecidableEq, Repr

/-- The model's own: where inside one step of a phase an operation waits for an answer that has not come (log entry 3).
PHASE and IDX do not say it. It is `start` whenever BUSY = 0. -/
inductive Pos where
  /-- at the start of the step. -/
  | start
  /-- StuffAndWrite(b): b is accumulated, the first transfer of its symbol is not answered. -/
  | txFirst (b : Byte)
  /-- StuffAndWrite(b): the stuff marker is sent, the second transfer is not answered. -/
  | txSecond (b : Byte)
  /-- Unstuff: the stuff marker is consumed, the second read is not answered. -/
  | rxSecond
  /-- a Sleep(1) is not answered. -/
  | sleeping
deriving DecidableEq, Repr

/-- HDR[0..3], the response header (R19). -/
structure RxHeader where
  /-- HDR[0] -/
  address : Byte
  /-- HDR[1], the command echo -/
  command : Byte
  /-- HDR[2]: bit 7 reserved, bits 6..0 the sensor error code (R20) -/
  state : Byte
  /-- HDR[3] -/
  dataLen : Byte
deriving DecidableEq, Repr

/-- The transport's answer to one RxByte (R35): the signed status, and the byte, which has no meaning unless the
status is positive. -/
structure RxAnswer where
  status : Status
  data : Byte
deriving DecidableEq, Repr

/-- An externally visible event (R9): a transfer with its answer, or Sleep(1). -/
inductive Event where
  | tx (b : Byte) (status : Status)
  | rx (answer : RxAnswer)
  | sleep
deriving DecidableEq, Repr

/-- What the host presents between operations: a command word (R55), or a write through the buffer port (R43). -/
inductive HostMove where
  | command (cw : CommandWord)
  | writeBuf (address : BitVec 16) (v : Byte)
deriving DecidableEq, Repr

/-- Why the machine stops. -/
inductive Fault where
  /-- An access to BUF at an address of CAPACITY or more, which R30 gives neither MemRead nor MemWrite. Raised by the
  host's write through the buffer port, and by an operation only in states no run reaches (Inv rules them out).
  Safe: the model stops where the spec gives no meaning. -/
  | noSuchAddress (address : Nat)
deriving DecidableEq, Repr

/-- Why an instruction has no meaning. -/
inductive Refusal where
  /-- Raised by an arm of exec that has no meaning yet; no arm of this model is one. Safe. -/
  | notModelled (mnemonic : String)
deriving DecidableEq, Repr

/-- Everything the spec gives the machine (R11), then the ports, then the model's own fields. -/
structure State where
  /-- BUF (R13). -/
  buf : Memory
  /-- OFFSET (R14). -/
  offset : BitVec 16
  /-- CHECKSUM (R15). -/
  checksum : Byte
  /-- LAST_IO_STATUS (R16), signed. -/
  lastIoStatus : Status
  /-- IO (R17). -/
  io : IoBinding
  /-- HDR[0..3] (R19). -/
  hdr : RxHeader
  /-- RESULT (R18), signed. -/
  result : Status
  /-- MODE (R21). -/
  mode : Mode
  /-- PHASE (R22). -/
  phase : Phase
  /-- IDX (R22). -/
  idx : BitVec 16
  /-- BUDGET (R23). -/
  budget : BitVec 16
  /-- EXPLEN (R23). -/
  explen : Byte
  /-- FAULT (R24). -/
  fault : FaultCode
  /-- BUSY (R25). -/
  busy : Bool
  /-- Command words and buffer-port writes the host presents, the next one first (D2, R43, R55). -/
  host : List HostMove
  /-- The reset input (R129). -/
  resetInput : Bool
  /-- Bytes waiting on the data port, the next one first (R55, R71). -/
  dataPort : List Byte
  /-- The transport's answers to the next TxByte requests (R34); when it is empty the next one is not answered. -/
  txAnswers : List Status
  /-- The transport's answers to the next RxByte requests (R35); when it is empty the next one is not answered. -/
  rxAnswers : List RxAnswer
  /-- How many further Sleep(1) requests the timer answers (R36). -/
  sleepAnswers : Nat
  /-- The events so far, oldest first (R9). -/
  events : List Event
  /-- The model's own: the position inside a step of a waiting operation. -/
  pos : Pos
  /-- The model's own: the operand of an `add_bytes` in progress, which the host holds on the command port; 0 when no
  `add_bytes` is in progress. -/
  copyLength : BitVec 16
  /-- The model's own: the number of reset inputs so far, on which the free values of unwritten bytes depend. -/
  resets : Nat
  /-- The parameters of R6; no step writes them. -/
  cfg : Config
deriving DecidableEq, Repr

/-- The block right after reset (R29, R129): every register as the table says; HDR, which the spec leaves unspecified,
zero (DESIGN CHOICE, log entry 8); BUF with nothing written; nothing on the ports; the reference parameters. -/
def State.reset : State where
  buf := []
  offset := 0
  checksum := 0
  lastIoStatus := 0
  io := .unbound
  hdr := ⟨0, 0, 0, 0⟩
  result := 0
  mode := .unbound
  phase := .idle
  idx := 0
  budget := 0
  explen := 0
  fault := .noFault
  busy := false
  host := []
  resetInput := false
  dataPort := []
  txAnswers := []
  rxAnswers := []
  sleepAnswers := 0
  events := []
  pos := .start
  copyLength := 0
  resets := 0
  cfg := Config.reference

end Sys2Proof.Machine
end

