-- ==== Sys2Proof/Machine/Flags.lean ====
section
/-! DEFINITION. The tests the rules make (R82 f to i) and the block's status outputs as bits (R29). The block has no
flags register: no operation sets a carry, zero or overflow flag. -/

namespace Sys2Proof.Machine

/-- `s < 1`, signed: the transfer of one byte was refused (R34, R75). -/
def refusedStatus (s : Status) : Bool := s.slt 1

/-- `s < 0`, signed: a transport error (R35, R87). -/
def errorStatus (s : Status) : Bool := s.slt 0

/-- `s <= 0`, signed: no byte came (R85, R93). -/
def noByteStatus (s : Status) : Bool := s.sle 0

/-- The four reserved wire values (R49, R53). -/
def reservedByte (b : Byte) : Bool := b == 0x11 || b == 0x13 || b == 0x7D || b == 0x7E

/-- The frame delimiter (R46, R47). -/
def delimiter : Byte := 0x7E

/-- The stuff marker (R49). -/
def stuffMarker : Byte := 0x7D

/-- The inversion of bit 5 (R49, R82 c). -/
def invertBit5 (b : Byte) : Byte := b ^^^ 0x20

/-- `(HDR.STATE and 0x7F) != 0`: the sensor reports an error; bit 7 takes no part (R20, R92). -/
def executionError (state : Byte) : Bool := state &&& 0x7F != 0

/-- The encoding of IO (R17). -/
def ioCode : IoBinding → BitVec 2
  | .unbound => 0
  | .writer => 1
  | .reader => 2

/-- The encoding of MODE (R21). -/
def modeCode : Mode → BitVec 3
  | .unbound => 0
  | .build => 1
  | .sent => 2
  | .received => 3
  | .invalid => 4

/-- The encoding of FAULT (R24). -/
def faultBits : FaultCode → BitVec 2
  | .noFault => 0
  | .illegalOp => 1
  | .misuse => 2
  | .bufferOverrun => 3

/-- HDR[k] (R8, R19). -/
def headerByte (h : RxHeader) (k : Nat) : Byte :=
  match k with
  | 0 => h.address
  | 1 => h.command
  | 2 => h.state
  | _ => h.dataLen

/-- The status outputs of R29 as the host samples them; PHASE, IDX, BUDGET and EXPLEN are not among them. -/
structure StatusOutputs where
  offset : BitVec 16
  checksum : BitVec 8
  lastIoStatus : BitVec 16
  io : BitVec 2
  hdr : List (BitVec 8)
  result : BitVec 16
  mode : BitVec 3
  fault : BitVec 2
  busy : BitVec 1
deriving DecidableEq, Repr

/-- The host's view of the registers (R29). -/
def statusOutputs (s : State) : StatusOutputs where
  offset := s.offset
  checksum := s.checksum
  lastIoStatus := s.lastIoStatus
  io := ioCode s.io
  hdr := (List.range 4).map (headerByte s.hdr)
  result := s.result
  mode := modeCode s.mode
  fault := faultBits s.fault
  busy := BitVec.ofBool s.busy

/-- The classes a higher layer may group the errors in (R116); the block does nothing with them. -/
inductive ErrorClass where
  | framing
  | transport
  | remote
deriving DecidableEq, Repr

/-- The class column of R106. -/
def errorClass : ErrorKind → ErrorClass
  | .encodingError => .framing
  | .transmitIncomplete => .transport
  | .missingStart => .framing
  | .missingStop => .framing
  | .frameTooLong => .framing
  | .checksumMismatch => .framing
  | .executionFailure => .remote

end Sys2Proof.Machine
end

