-- ==== Sys2Proof/Machine/Operands.lean ====
section
/-! DEFINITION. How operands become bytes (R37, R54). The block has one addressing mode, the append at OFFSET of R63,
which is `append` in Machine/Writer.lean. -/

namespace Sys2Proof.Machine

/-- `byte_k(v)` = v[8k+7:8k] (R7). -/
def byteAt {w : Nat} (k : Nat) (v : BitVec w) : Byte := v.extractLsb' (8 * k) 8

/-- The n low bytes of v, most significant first. -/
def bytesMsbFirst {w : Nat} (v : BitVec w) : Nat → List Byte
  | 0 => []
  | n + 1 => byteAt n v :: bytesMsbFirst v n

/-- The bytes of an n-byte value in the order they are appended (R37): `byte_{n-1}` first with BYTE_ORDER = big, the
indices reversed with little. -/
def serialize {w : Nat} (o : ByteOrder) (n : Nat) (v : BitVec w) : List Byte :=
  match o with
  | .big => bytesMsbFirst v n
  | .little => (bytesMsbFirst v n).reverse

/-- The byte of `add_bool` (R65): zext_8 of the one-bit operand. -/
def boolByte (v : BitVec 1) : Byte := v.setWidth 8

end Sys2Proof.Machine
end

