-- ==== Sys2Proof/Machine/Ops.lean ====
section
/-! DEFINITION. The named operations over the state: BUF, the checksum accumulator, the three ports, accepting and ending
an operation, `fail` (R114), `raise Fault` (R118), and the reset input (R129). -/

namespace Sys2Proof.Machine

/-! ### How a piece of an operation ends -/

/-- `go`: the operation goes on with the next line. `stop`: this step ends here, because the operation has ended
(BUSY = 0) or waits for an answer (BUSY = 1). `bad`: the machine stops. -/
inductive Flow where
  | go (s : State)
  | stop (s : State)
  | bad (f : Fault)
deriving DecidableEq, Repr

/-- The next lines, if the operation goes on. -/
def andThen (f : Flow) (k : State → Flow) : Flow :=
  match f with
  | .go s => k s
  | .stop s => .stop s
  | .bad x => .bad x

/-- The outcome of the step. -/
def outcome (f : Flow) : Host.Outcome State Fault Refusal :=
  match f with
  | .go s => .next s
  | .stop s => .next s
  | .bad x => .fault x

/-- What a read of a port gives: the operation waits, or it has a value and goes on. -/
inductive Got (α : Type) where
  | waits (s : State)
  | got (v : α) (s : State)
deriving DecidableEq, Repr

/-! ### BUF (R30) -/

/-- The byte written at an address, if one is. -/
def Memory.find (m : Memory) (a : Nat) : Option Byte :=
  match m with
  | [] => none
  | (b, v) :: rest => if a = b then some v else Memory.find rest a

/-- The list with the byte v at the address a, in rising order. -/
def Memory.put (m : Memory) (a : Nat) (v : Byte) : Memory :=
  match m with
  | [] => [(a, v)]
  | (b, w) :: rest =>
    if a < b then (a, v) :: (b, w) :: rest
    else if a = b then (a, v) :: rest
    else (b, w) :: Memory.put rest a v

/-- Every address of the list is above a, and they rise. -/
def Memory.risesFrom (a : Nat) (m : Memory) : Bool :=
  match m with
  | [] => true
  | (b, _) :: rest => decide (a < b) && Memory.risesFrom b rest

/-- The canonical form: addresses strictly rising. An unlisted address has no written value, so no entry can equal what
an unlisted address holds. -/
def Memory.wf (m : Memory) : Bool :=
  match m with
  | [] => true
  | (b, _) :: rest => Memory.risesFrom b rest

/-- What BUF[a] reads as: the byte written there, or the free value of a byte nothing has written since reset. -/
def bufByte (s : State) (a : Nat) : Byte := (Memory.find s.buf a).getD (Config.unwritten s.resets a)

/-- `MemRead(a, 1)`: only addresses below CAPACITY exist (R30). -/
def memRead (a : Nat) (s : State) : Option Byte := if a < s.cfg.capacity then some (bufByte s a) else none

/-- A line that reads BUF[a] and goes on with the byte. -/
def readByte (a : Nat) (s : State) (k : Byte → Flow) : Flow :=
  match memRead a s with
  | some b => k b
  | none => .bad (.noSuchAddress a)

/-- The state with BUF[a] = v. -/
def setByte (a : Nat) (v : Byte) (s : State) : State := { s with buf := Memory.put s.buf a v }

/-- `MemWrite(a, 1, v)`: only addresses below CAPACITY exist (R30). -/
def memWrite (a : Nat) (v : Byte) (s : State) : Flow :=
  if a < s.cfg.capacity then .go (setByte a v s) else .bad (.noSuchAddress a)

/-- `for k = 0 .. n-1: MemWrite(a + k, 1, e[k])`. -/
def writeBytes (a : Nat) (e : List Byte) (s : State) : Flow :=
  match e with
  | [] => .go s
  | b :: rest => andThen (memWrite a b s) (writeBytes (a + 1) rest)

/-! ### The checksum accumulator (R73) -/

/-- `Accumulate(b)`: CHECKSUM <- (CHECKSUM + b) mod 256. -/
def accumulate (b : Byte) (s : State) : State := { s with checksum := s.checksum + b }

/-! ### Accepting and ending an operation -/

/-- An operation is accepted: BUSY <- 1 (R25) and the sequencer stands at phase p (R22). -/
def accept (p : Phase) (s : State) : State := { s with busy := true, phase := p, idx := 0, pos := .start }

/-- `PHASE <- p`; IDX starts again at 0 (R22; log entry 23). -/
def toPhase (p : Phase) (s : State) : State := { s with phase := p, idx := 0 }

/-- The operation is over: BUSY = 0, PHASE = IDLE, IDX = 0 (R22, R25). -/
def endOperation (s : State) : State :=
  { s with busy := false, phase := .idle, idx := 0, pos := .start, copyLength := 0 }

/-- `MODE <- m; return 0` (R8, R76, R94). -/
def returnSuccess (m : Mode) (s : State) : State := endOperation { s with result := 0, mode := m }

/-- ERRCODE(e) (R106). -/
def errorCode (c : ErrorCodes) (e : ErrorKind) : Status :=
  match e with
  | .encodingError => c.encodingError
  | .transmitIncomplete => c.transmitIncomplete
  | .missingStart => c.missingStart
  | .missingStop => c.missingStop
  | .frameTooLong => c.frameTooLong
  | .checksumMismatch => c.checksumMismatch
  | .executionFailure => c.executionFailure

/-- `fail E` (R114): RESULT <- ERRCODE(E), MODE <- INVALID, PHASE <- IDLE, IDX <- 0, BUSY <- 0, nothing else. -/
def fail (e : ErrorKind) (s : State) : State :=
  endOperation { s with result := errorCode s.cfg.errorCodes e, mode := .invalid }

/-- `raise Fault(F)` (R118): FAULT <- F unless a fault is already held, MODE <- INVALID, PHASE <- IDLE, IDX <- 0,
BUSY <- 0; RESULT is not written. There is no return from it but reset (R120). -/
def raiseFault (f : FaultCode) (s : State) : State :=
  endOperation { s with fault := if s.fault = .noFault then f else s.fault, mode := .invalid }

/-! ### The ports -/

/-- `TxByte(b)` (R34). The answer goes to LAST_IO_STATUS before it is tested. When the transport gives no answer the
operation waits at the position p. -/
def txByte (p : Pos) (b : Byte) (s : State) : Flow :=
  match s.txAnswers with
  | [] => .stop { s with pos := p }
  | a :: rest =>
    .go { s with txAnswers := rest, lastIoStatus := a, events := s.events ++ [.tx b a], pos := .start }

/-- `s <- TxByte(b); if s < 1: fail TransmitIncomplete` (R75, R76). -/
def sendByte (p : Pos) (b : Byte) (s : State) : Flow :=
  andThen (txByte p b s) fun s =>
    if refusedStatus s.lastIoStatus then .stop (fail .transmitIncomplete s) else .go s

/-- `RxByte()` (R35). The status goes to LAST_IO_STATUS before it is tested; the byte has a meaning only with a
positive status. When the transport gives no answer the operation waits at the position p. -/
def rxByte (p : Pos) (s : State) : Got Byte :=
  match s.rxAnswers with
  | [] => .waits { s with pos := p }
  | a :: rest =>
    .got a.data { s with rxAnswers := rest, lastIoStatus := a.status, events := s.events ++ [.rx a], pos := .start }

/-- `Sleep(1)` (R36): it changes no register. When the timer does not answer the operation waits. -/
def sleepOne (s : State) : Flow :=
  match s.sleepAnswers with
  | 0 => .stop { s with pos := .sleeping }
  | n + 1 => .go { s with sleepAnswers := n, events := s.events ++ [.sleep], pos := .start }

/-! ### The reset input (R129) -/

/-- Reset: every register as State.reset has it, an operation in progress abandoned without a further event. The agents'
side of the ports, the events already recorded and the parameters stay; the reset line is released. -/
def applyReset (s : State) : State :=
  { State.reset with
    host := s.host, dataPort := s.dataPort, txAnswers := s.txAnswers, rxAnswers := s.rxAnswers,
    sleepAnswers := s.sleepAnswers, events := s.events, resets := s.resets + 1, cfg := s.cfg }

end Sys2Proof.Machine
end

