-- ==== Sys2Proof/Machine/Decoder.lean ====
section
/-! DEFINITION. The byte un-stuffer and the frame decoder (42_decoder.md R85 to R98). A phase function runs its phase
from where PHASE, IDX and the position stand, then the phases after it. -/

namespace Sys2Proof.Machine

/-! ### The byte un-stuffer (R85) -/

/-- The read after a stuff marker: whatever byte comes, bit 5 is inverted; with no byte the marker is lost. -/
def unstuffSecond (s : State) : Got (Option Byte) :=
  match rxByte .rxSecond s with
  | .waits s => .waits s
  | .got d s =>
    if noByteStatus s.lastIoStatus then .got none s
    else .got (some (invertBit5 d)) (accumulate (invertBit5 d) s)

/-- A symbol from its first byte. -/
def unstuffFirst (s : State) : Got (Option Byte) :=
  match rxByte .start s with
  | .waits s => .waits s
  | .got d s =>
    if noByteStatus s.lastIoStatus then .got none s
    else if d = stuffMarker then unstuffSecond s
    else .got (some d) (accumulate d s)

/-- `Unstuff()` (R85). `none` means a status of 0 or below, left in LAST_IO_STATUS, and nothing accumulated. -/
def unstuff (s : State) : Got (Option Byte) :=
  match s.pos with
  | .rxSecond => unstuffSecond s
  | .start => unstuffFirst s
  | .sleeping => unstuffFirst s
  | .txFirst _ => unstuffFirst s
  | .txSecond _ => unstuffFirst s

/-- `HDR[k] <- v` (R19). -/
def setHeaderByte (k : Nat) (v : Byte) (h : RxHeader) : RxHeader :=
  match k with
  | 0 => { h with address := v }
  | 1 => { h with command := v }
  | 2 => { h with state := v }
  | 3 => { h with dataLen := v }
  | _ => h

/-- BUDGET <- BUDGET - 1, made only when BUDGET > 0 (R23). -/
def spendBudget (s : State) : State := { s with budget := s.budget - 1 }

/-! ### The phases of `read_response`, last first -/

/-- Phase 7 (R93): one raw byte, the stop delimiter, not accumulated; then success (R94). -/
def rxP7Phase (s : State) : Flow :=
  match rxByte .start s with
  | .waits s => .stop s
  | .got d s =>
    if noByteStatus s.lastIoStatus || d != delimiter then .stop (fail .missingStop s)
    else .stop (returnSuccess .received s)

/-- Phase 6 (R92): the low 7 bits of HDR.STATE, no event. -/
def rxP6Phase (s : State) : Flow :=
  if executionError s.hdr.state then .stop (fail .executionFailure s) else rxP7Phase (toPhase .rxP7 s)

/-- Phase 5 (R91): the checksum byte is accumulated and discarded; the sum must be 0xFF. -/
def rxP5Phase (s : State) : Flow :=
  match unstuff s with
  | .waits s => .stop s
  | .got none s => .stop (fail .missingStop s)
  | .got (some _) s =>
    if s.checksum ≠ 0xFF then .stop (fail .checksumMismatch s) else rxP6Phase (toPhase .rxP6 s)

/-- The store of one payload byte in Phase 4 (R90). -/
def storePayload (v : Byte) (s : State) : Flow :=
  if s.cfg.capacity ≤ s.offset.toNat then .stop (raiseFault .bufferOverrun s)
  else andThen (memWrite s.offset.toNat v s) fun s => .go { s with offset := s.offset + 1 }

/-- The loop of Phase 4 (R90). Each round stores a byte or spends one unit of BUDGET, so the sum of the bytes still to
come and of BUDGET bounds the rounds; n is that bound. -/
def rxP4Loop (n : Nat) (s : State) : Flow :=
  match n with
  | 0 => .go s
  | n + 1 =>
    if s.offset.toNat < s.hdr.dataLen.toNat ∧ 0 < s.budget.toNat then
      match unstuff s with
      | .waits s => .stop s
      | .got (some v) s => andThen (storePayload v s) (rxP4Loop n)
      | .got none s =>
        if errorStatus s.lastIoStatus then .stop (fail .missingStop s)
        else andThen (sleepOne (spendBudget s)) (rxP4Loop n)
    else .go s

/-- The rounds Phase 4 can still make. -/
def payloadRounds (s : State) : Nat := (s.hdr.dataLen.toNat - s.offset.toNat) + s.budget.toNat

/-- The end of Phase 4: the loop ended with bytes missing only because BUDGET reached 0. -/
def rxP4Exit (s : State) : Flow :=
  if s.offset.toNat < s.hdr.dataLen.toNat then .stop (fail .encodingError s) else rxP5Phase (toPhase .rxP5 s)

/-- Phase 4 (R90). An operation that waited in its Sleep(1) has already spent the unit. -/
def rxP4Phase (s : State) : Flow :=
  andThen (if s.pos = .sleeping then sleepOne s else .go s) fun s =>
  andThen (rxP4Loop (payloadRounds s) s) rxP4Exit

/-- Phase 3 (R89): no event; a shorter frame than expected passes. -/
def rxP3Phase (s : State) : Flow :=
  if s.explen.toNat < s.hdr.dataLen.toNat then .stop (fail .frameTooLong s) else rxP4Phase (toPhase .rxP4 s)

/-- The loop of Phase 2: n header bytes are still to come, the next one is HDR[IDX]. -/
def rxP2Loop (n : Nat) (s : State) : Flow :=
  match n with
  | 0 => .go s
  | n + 1 =>
    match unstuff s with
    | .waits s => .stop s
    | .got none s => .stop (fail .missingStop s)
    | .got (some v) s => rxP2Loop n { s with hdr := setHeaderByte s.idx.toNat v s.hdr, idx := s.idx + 1 }

/-- Phase 2 (R88): four header symbols, no retry. -/
def rxP2Phase (s : State) : Flow :=
  andThen (rxP2Loop (4 - s.idx.toNat) s) fun s => rxP3Phase (toPhase .rxP3 s)

/-- The loop of Phase 1 (R87), n = BUDGET: the budget is tested before each attempt. -/
def rxP1Loop (n : Nat) (s : State) : Flow :=
  match n with
  | 0 => .stop (fail .missingStart s)
  | n + 1 =>
    match rxByte .start s with
    | .waits s => .stop s
    | .got d s =>
      if errorStatus s.lastIoStatus then .stop (fail .missingStart s)
      else if s.lastIoStatus = 0 then andThen (sleepOne s) fun s => rxP1Loop n (spendBudget s)
      else if d ≠ delimiter then .stop (fail .missingStart s)
      else .go s

/-- Phase 1 (R87). An operation that waited in its Sleep(1) has the unit still to spend. -/
def rxP1Phase (s : State) : Flow :=
  andThen (if s.pos = .sleeping then andThen (sleepOne s) fun s => .go (spendBudget s) else .go s) fun s =>
  andThen (rxP1Loop s.budget.toNat s) fun s => rxP2Phase (toPhase .rxP2 s)

/-- The entry of `read_response` (R86). HDR and BUF are not cleared. -/
def enterResponse (expectedDataLength : Byte) (maxTimeoutMs : BitVec 16) (s : State) : State :=
  { accept .rxP1 s with
    offset := 0, checksum := 0, lastIoStatus := 0, io := .reader, explen := expectedDataLength,
    budget := maxTimeoutMs }

/-- The meaning of `read_response` (R86 to R94), legal in every MODE. -/
def execReadResponse (expectedDataLength : Byte) (maxTimeoutMs : BitVec 16) (s : State) :
    Host.Outcome State Fault Refusal :=
  outcome (rxP1Phase (enterResponse expectedDataLength maxTimeoutMs s))

end Sys2Proof.Machine
end

