-- ==== Sys2Proof/Machine/Encoder.lean ====
section
/-! DEFINITION. The header composer, the byte stuffer and the frame encoder (41_encoder.md R73 to R82). A phase function
runs its phase from where PHASE, IDX and the position stand, then the phases after it. -/

namespace Sys2Proof.Machine

/-- `begin_stream command, address, data_length` (R74): the address goes to BUF[0], the command to BUF[1]. -/
def execBeginStream (command address dataLength : Byte) (s : State) : Host.Outcome State Fault Refusal :=
  outcome <|
    andThen (memWrite 0 address { accept .idle s with checksum := 0, lastIoStatus := 0 }) fun s =>
    andThen (memWrite 1 command s) fun s =>
    andThen (memWrite 2 dataLength s) fun s =>
    .stop (endOperation { s with offset := 3, mode := .build })

/-! ### The byte stuffer (R75) -/

/-- The second transfer of an escaped symbol: the byte with bit 5 inverted. -/
def symbolSecond (b : Byte) (s : State) : Flow := sendByte (.txSecond b) (invertBit5 b) s

/-- The transfers of the symbol of b, b being accumulated already. -/
def symbolFirst (b : Byte) (s : State) : Flow :=
  if reservedByte b then andThen (sendByte (.txFirst b) stuffMarker s) (symbolSecond b)
  else sendByte (.txFirst b) b s

/-- `StuffAndWrite(b)` (R75): b is accumulated before the branch, on its unstuffed value. An operation that waited
inside the step goes on from its position. -/
def stuffAndWrite (b : Byte) (s : State) : Flow :=
  match s.pos with
  | .start => symbolFirst b (accumulate b s)
  | .txFirst c => symbolFirst c s
  | .txSecond c => symbolSecond c s
  | .rxSecond => symbolFirst b (accumulate b s)
  | .sleeping => symbolFirst b (accumulate b s)

/-! ### The phases of `write_request` (R76), last first -/

/-- TX_STOP: the stop delimiter, neither stuffed nor accumulated; then success. -/
def txStopPhase (s : State) : Flow :=
  andThen (sendByte .start delimiter s) fun s => .stop (returnSuccess .sent s)

/-- TX_CSUM: the complement of the accumulated checksum goes through the same step (R79). -/
def txCsumPhase (s : State) : Flow :=
  andThen (stuffAndWrite (~~~ s.checksum) s) fun s => txStopPhase (toPhase .txStop s)

/-- The loop of TX_BODY: n bytes of BUF are still to be sent, from address IDX on. -/
def txBodyLoop (n : Nat) (s : State) : Flow :=
  match n with
  | 0 => .go s
  | n + 1 =>
    readByte s.idx.toNat s fun b =>
      andThen (stuffAndWrite b s) fun s => txBodyLoop n { s with idx := s.idx + 1 }

/-- TX_BODY: addresses 0 to OFFSET-1, OFFSET excluded. -/
def txBodyPhase (s : State) : Flow :=
  andThen (txBodyLoop (s.offset.toNat - s.idx.toNat) s) fun s => txCsumPhase (toPhase .txCsum s)

/-- TX_START: the start delimiter, neither stuffed nor accumulated. -/
def txStartPhase (s : State) : Flow :=
  andThen (sendByte .start delimiter s) fun s => txBodyPhase (toPhase .txBody s)

/-- TX_CHECK: IO <- WRITER, then the length check of R77 on integers, before any event. -/
def txCheckPhase (s : State) : Flow :=
  readByte 2 { s with io := .writer } fun declared =>
    if s.offset.toNat ≠ declared.toNat + 3 then .stop (fail .encodingError { s with io := .writer })
    else txStartPhase (toPhase .txStart { s with io := .writer })

/-- `write_request` (R76): legal only in MODE = BUILD. -/
def writeRequest (s : State) : Flow :=
  if s.mode ≠ .build then .stop (raiseFault .misuse s) else txCheckPhase (accept .txCheck s)

/-- The meaning of `write_request` (R76). -/
def execWriteRequest (s : State) : Host.Outcome State Fault Refusal := outcome (writeRequest s)

end Sys2Proof.Machine
end

