-- ==== Sys2Proof/Machine/Writer.lean ====
section
/-! DEFINITION. The argument stream serializer: the append step and the eight writer operations (40_writer.md R63 to R72). -/

namespace Sys2Proof.Machine

/-- The two tests of R63, in the order of R119: Misuse before BufferOverrun. With both passed, the append of n bytes
goes on as k says. -/
def guardAppend (n : Nat) (s : State) (k : State → Flow) : Flow :=
  if s.mode ≠ .build then .stop (raiseFault .misuse s)
  else if s.cfg.capacity < s.offset.toNat + n then .stop (raiseFault .bufferOverrun s)
  else k s

/-- OFFSET <- OFFSET + n, and the writer operation is over: no return value, MODE stays BUILD (R63). -/
def endAppend (n : Nat) (s : State) : State :=
  endOperation { s with offset := BitVec.ofNat 16 (s.offset.toNat + n) }

/-- `Append(n, e)` (R63) for the operations whose bytes come with the command word. -/
def append (e : List Byte) (s : State) : Flow :=
  guardAppend e.length (accept .idle s) fun s =>
    andThen (writeBytes s.offset.toNat e s) fun s => .stop (endAppend e.length s)

/-- The COPY loop of R71: n data bytes are still to be copied, IDX have been. With no byte on the data port the
operation waits (D10). -/
def copyLoop (n : Nat) (s : State) : Flow :=
  match n with
  | 0 => .stop (endAppend s.copyLength.toNat s)
  | n + 1 =>
    match s.dataPort with
    | [] => .stop s
    | b :: rest =>
      andThen (memWrite (s.offset.toNat + s.idx.toNat) b { s with dataPort := rest }) fun s =>
        copyLoop n { s with idx := s.idx + 1 }

/-- The phase COPY, from its start or from where it waited. -/
def copyPhase (s : State) : Flow := copyLoop (s.copyLength.toNat - s.idx.toNat) s

/-- `add_u8 v` (R64). -/
def execAddU8 (v : BitVec 8) (s : State) : Host.Outcome State Fault Refusal := outcome (append [v] s)

/-- `add_bool v` (R65). -/
def execAddBool (v : BitVec 1) (s : State) : Host.Outcome State Fault Refusal := outcome (append [boolByte v] s)

/-- `add_u16 v` (R66). -/
def execAddU16 (v : BitVec 16) (s : State) : Host.Outcome State Fault Refusal :=
  outcome (append (serialize s.cfg.byteOrder 2 v) s)

/-- `add_i16 v` (R67): on patterns the same function as `add_u16`. -/
def execAddI16 (v : BitVec 16) (s : State) : Host.Outcome State Fault Refusal :=
  outcome (append (serialize s.cfg.byteOrder 2 v) s)

/-- `add_u32 v` (R68). -/
def execAddU32 (v : BitVec 32) (s : State) : Host.Outcome State Fault Refusal :=
  outcome (append (serialize s.cfg.byteOrder 4 v) s)

/-- `add_i32 v` (R69): on patterns the same function as `add_u32`. -/
def execAddI32 (v : BitVec 32) (s : State) : Host.Outcome State Fault Refusal :=
  outcome (append (serialize s.cfg.byteOrder 4 v) s)

/-- `add_float v` (R70): the pattern is copied bit for bit into FLOAT_W bytes, no floating-point arithmetic. -/
def execAddFloat (v : BitVec 32) (s : State) : Host.Outcome State Fault Refusal :=
  outcome (append (serialize s.cfg.byteOrder s.cfg.floatW v) s)

/-- `add_bytes data, length` (R71): both tests are made on `length` before the first write; then PHASE <- COPY. When a
test fails the operation takes no byte from the data port, and the bytes presented for it stay there, through reset too,
as data of the next `add_bytes` (DESIGN CHOICE: the spec says nothing of them; log entry 27). -/
def execAddBytes (length : BitVec 16) (s : State) : Host.Outcome State Fault Refusal :=
  outcome (guardAppend length.toNat (accept .copy s) fun s => copyPhase { s with copyLength := length })

end Sys2Proof.Machine
end

