-- ==== Sys2Proof/Machine/Dispatch.lean ====
section
/-! DEFINITION. One arm per operation (R56). -/

namespace Sys2Proof.Machine

def exec (i : Instr) (s : State) : Host.Outcome State Fault Refusal :=
  match i with
  | .addU8 v => Sys2Proof.Machine.execAddU8 v s
  | .addBool v => Sys2Proof.Machine.execAddBool v s
  | .addU16 v => Sys2Proof.Machine.execAddU16 v s
  | .addI16 v => Sys2Proof.Machine.execAddI16 v s
  | .addU32 v => Sys2Proof.Machine.execAddU32 v s
  | .addI32 v => Sys2Proof.Machine.execAddI32 v s
  | .addFloat v => Sys2Proof.Machine.execAddFloat v s
  | .addBytes length => Sys2Proof.Machine.execAddBytes length s
  | .beginStream command address dataLength => Sys2Proof.Machine.execBeginStream command address dataLength s
  | .writeRequest => Sys2Proof.Machine.execWriteRequest s
  | .readResponse expectedDataLength maxTimeoutMs => Sys2Proof.Machine.execReadResponse expectedDataLength maxTimeoutMs s

end Sys2Proof.Machine
end

