-- ==== Sys2Proof/Machine/Sequencer.lean ====
section
/-! DEFINITION. What a step does before an operation runs: the reset input, an operation in progress, the buffer port and
the command port (R25, R43, R55, R119, R129). -/

namespace Sys2Proof.Machine

/-- An operation in progress (BUSY = 1) goes on from its PHASE, as far as the answers on its ports reach. With the
answer it waits for still missing, nothing changes and BUSY stays 1 (U7, U19). -/
def resume (s : State) : Flow :=
  match s.phase with
  | .idle => .stop s
  | .copy => copyPhase s
  | .txCheck => txCheckPhase s
  | .txStart => txStartPhase s
  | .txBody => txBodyPhase s
  | .txCsum => txCsumPhase s
  | .txStop => txStopPhase s
  | .rxP1 => rxP1Phase s
  | .rxP2 => rxP2Phase s
  | .rxP3 => rxP3Phase s
  | .rxP4 => rxP4Phase s
  | .rxP5 => rxP5Phase s
  | .rxP6 => rxP6Phase s
  | .rxP7 => rxP7Phase s

/-- What a step has to do: it is done already, or it runs an accepted operation on a state. -/
inductive Action where
  | done (o : Host.Outcome State Fault Refusal)
  | run (i : Instr) (s : State)

/-- The command port (R55, R119): not ready while FAULT is held, so the word waits; an illegal word raises IllegalOp;
a legal one is taken off the port and its operation runs. -/
def takeCommand (cw : CommandWord) (rest : List HostMove) (s : State) : Action :=
  if s.fault ≠ .noFault then .done (.next s)
  else
    match decodeFor s.cfg cw with
    | .error _ => .done (.next (raiseFault .illegalOp { s with host := rest }))
    | .ok i => .run i { s with host := rest }

/-- The next move of the host, the block being idle. With none, the block waits for a command word (R129). -/
def takeHostMove (s : State) : Action :=
  match s.host with
  | [] => .done (.next s)
  | .writeBuf a v :: rest => .done (outcome (memWrite a.toNat v { s with host := rest }))
  | .command cw :: rest => takeCommand cw rest s

/-- Reset first (R129), then the operation in progress (the host waits while BUSY = 1, R132), then the host. -/
def fetch (s : State) : Action :=
  if s.resetInput then .done (.next (applyReset s))
  else if s.busy then .done (outcome (resume s))
  else takeHostMove s

/-- The host's read of BUF through the buffer port (R43): an observation, no step. There is none while BUSY = 1 (U6),
nor at an address that does not exist. -/
def hostRead (a : BitVec 16) (s : State) : Option Byte := if s.busy then none else memRead a.toNat s

/-- The state with the command word on the command port and, for `add_bytes`, `length` bytes of zero on the data port
(the operand bytes above the table's bits), and with whatever would keep the port from taking it cleared. -/
def presentWord (cw : CommandWord) (s : State) : State :=
  { s with
    host := .command cw :: s.host
    dataPort :=
      match decode cw with
      | .ok i => List.replicate i.dataCount 0 ++ s.dataPort
      | .error _ => s.dataPort
    resetInput := false, busy := false, fault := .noFault }

end Sys2Proof.Machine
end

