-- ==== Sys2Proof/Machine/Step.lean ====
section
/-! DEFINITION. One step of the machine, and the host's placing of a table word. -/

namespace Sys2Proof.Machine

/-- One step: the reset input, an operation in progress, a host move, or the operation of a command word. -/
def step (s : State) : Host.Outcome State Fault Refusal :=
  match fetch s with
  | .done o => o
  | .run i s => exec i s

/-- The state with the table word (bits at or above nbits 0) as the next thing the step takes (log entry 13). -/
def State.withFetchWord (s : State) (nbits w : Nat) : State := presentWord (BitVec.ofNat 40 (w % 2 ^ nbits)) s

end Sys2Proof.Machine
end

