-- ==== Sys2Proof/Machine/Frame.lean ====
section
/-! DEFINITION. The wire formats of Part A of 30_encoding.md (R46 to R52) as plain functions on bytes, written from its
tables and not from the operations, and the wire output of an event list (R9). The claims compare the operations with them. -/

namespace Sys2Proof.Machine

/-- The wire symbol of an unstuffed byte, the table of R49. -/
def symbol (b : Byte) : List Byte :=
  if b = 0x11 then [0x7D, 0x31]
  else if b = 0x13 then [0x7D, 0x33]
  else if b = 0x7D then [0x7D, 0x5D]
  else if b = 0x7E then [0x7D, 0x5E]
  else [b]

/-- The symbols of a list of unstuffed bytes. -/
def stuffed (bytes : List Byte) : List Byte := bytes.flatMap symbol

/-- The sum modulo 256 of a list of bytes (R52). -/
def sumBytes (bytes : List Byte) : Byte := bytes.foldl (· + ·) 0

/-- The checksum byte of the header and payload bytes of a frame: not8(S) (R52). -/
def checksumByte (bytes : List Byte) : Byte := ~~~ (sumBytes bytes)

/-- A frame on the wire (R46, R47): delimiter, the symbols of the bytes and of the last byte c, delimiter. -/
def frameWith (bytes : List Byte) (c : Byte) : List Byte := [0x7E] ++ stuffed (bytes ++ [c]) ++ [0x7E]

/-- The frame of header and payload bytes with their checksum byte (R46, R52). -/
def frameOf (bytes : List Byte) : List Byte := frameWith bytes (checksumByte bytes)

/-- The header bytes of a response in wire order (R19, R47). -/
def headerBytes (h : RxHeader) : List Byte := [h.address, h.command, h.state, h.dataLen]

/-- BUF[0 .. n-1]. -/
def bufPrefix (s : State) (n : Nat) : List Byte := (List.range n).map (bufByte s)

/-- The byte an event put on the wire: that of a TxByte answered with a status of at least 1 (R9). -/
def sentByte : Event → Option Byte
  | .tx b status => if status.slt 1 then none else some b
  | .rx _ => none
  | .sleep => none

/-- The wire output of an event list (R9). -/
def wireOutput (events : List Event) : List Byte := events.filterMap sentByte

/-- The answers the RxByte events of a list got, in order. -/
def rxAnswersOf (events : List Event) : List RxAnswer :=
  events.filterMap fun e =>
    match e with
    | .rx a => some a
    | .tx _ _ => none
    | .sleep => none

/-- The statuses the TxByte events of a list got, in order. -/
def txStatusesOf (events : List Event) : List Status :=
  events.filterMap fun e =>
    match e with
    | .tx _ status => some status
    | .rx _ => none
    | .sleep => none

/-- What R50 and R85 make of the receive stream from a symbol's start (or, with `marker`, from just after a stuff marker):
a byte that follows a marker counts with bit 5 inverted, an answer without a byte drops a marker before it. -/
def unstuffedFrom (marker : Bool) (answers : List RxAnswer) : List Byte :=
  match answers with
  | [] => []
  | a :: rest =>
    if a.status.toInt ≤ 0 then unstuffedFrom false rest
    else if marker then (a.data ^^^ 0x20) :: unstuffedFrom false rest
    else if a.data = 0x7D then unstuffedFrom true rest
    else a.data :: unstuffedFrom false rest

/-- The bytes that the answers bring, un-stuffed. -/
def unstuffedBytes (answers : List RxAnswer) : List Byte := unstuffedFrom false answers

/-- The number of Sleep(1) events of a list. -/
def sleepsIn (events : List Event) : Nat := events.count .sleep

end Sys2Proof.Machine
end

