-- ==== Sys2Proof/Safety.lean ====
section
/-! DEFINITION. The terms the claims use: idle states, what an append leaves, deliveries by the transport, runs of several
operations, and the invariant of the machine. -/

namespace Sys2Proof.Machine

/-- The sequencer at rest: what R22 and R25 say holds whenever no operation is in progress. -/
abbrev Idle (s : State) : Prop :=
  s.busy = false ∧ s.phase = .idle ∧ s.idx = 0 ∧ s.pos = .start ∧ s.copyLength = 0

/-- A final state in the sense of R105 and R118: no operation in progress and no fault held. -/
abbrev Final (s : State) : Prop := s.busy = false ∧ s.fault = .noFault

/-- The next state of an outcome, if it is one. -/
def nextState (o : Host.Outcome State Fault Refusal) : Option State :=
  match o with
  | .next s => some s
  | .fault _ => none
  | .refused _ => none

/-- t is s after the bytes e were appended (R63): they stand at OFFSET upward, OFFSET has grown by their number, every
other byte of BUF reads as before, and every other field of the state is unchanged. -/
def Appended (s t : State) (e : List Byte) : Prop :=
  t = { s with buf := t.buf, offset := BitVec.ofNat 16 (s.offset.toNat + e.length) } ∧
  (∀ k (h : k < e.length), bufByte t (s.offset.toNat + k) = e[k]) ∧
  (∀ a, a < s.offset.toNat ∨ s.offset.toNat + e.length ≤ a → bufByte t a = bufByte s a)

/-- The eight writer operations (R54). -/
def isWriter : Instr → Bool
  | .addU8 _ => true
  | .addBool _ => true
  | .addU16 _ => true
  | .addI16 _ => true
  | .addU32 _ => true
  | .addI32 _ => true
  | .addFloat _ => true
  | .addBytes _ => true
  | .beginStream _ _ _ => false
  | .writeRequest => false
  | .readResponse _ _ => false

/-- The encoded width of a writer operation's operand in bytes (R39, R54), a float's being FLOAT_W; 0 for the other
operations. -/
def encodedWidth (c : Config) : Instr → Nat
  | .addU8 _ => 1
  | .addBool _ => 1
  | .addU16 _ => 2
  | .addI16 _ => 2
  | .addU32 _ => 4
  | .addI32 _ => 4
  | .addFloat _ => c.floatW
  | .addBytes length => length.toNat
  | .beginStream _ _ _ => 0
  | .writeRequest => 0
  | .readResponse _ _ => 0

/-- The bytes of a value, given most significant first, in the order BYTE_ORDER asks for (R37). -/
def inOrder (c : Config) (bytes : List Byte) : List Byte := if c.byteOrder = .big then bytes else bytes.reverse

/-- The table of R54, written with the slices it names, a float with FLOAT_W bytes; `data` are the bytes on the data
port. -/
def appendedBytes (c : Config) (i : Instr) (data : List Byte) : List Byte :=
  match i with
  | .addU8 v => [v]
  | .addBool v => [if v = 1 then 0x01 else 0x00]
  | .addU16 v => inOrder c [v.extractLsb 15 8, v.extractLsb 7 0]
  | .addI16 v => inOrder c [v.extractLsb 15 8, v.extractLsb 7 0]
  | .addU32 v => inOrder c [v.extractLsb 31 24, v.extractLsb 23 16, v.extractLsb 15 8, v.extractLsb 7 0]
  | .addI32 v => inOrder c [v.extractLsb 31 24, v.extractLsb 23 16, v.extractLsb 15 8, v.extractLsb 7 0]
  | .addFloat v => inOrder c ((List.range c.floatW).reverse.map fun k => v.extractLsb' (8 * k) 8)
  | .addBytes length => data.take length.toNat
  | .beginStream _ _ _ => []
  | .writeRequest => []
  | .readResponse _ _ => []

/-- The bytes a list of writer operations appends, each `add_bytes` taking its bytes from the data port in turn. -/
def appendedByAll (c : Config) (program : List Instr) (data : List Byte) : List Byte :=
  match program with
  | [] => []
  | i :: rest => appendedBytes c i data ++ appendedByAll c rest (data.drop i.dataCount)

/-- The sum of the encoded widths of a list of operations (R72). -/
def totalWidth (c : Config) (program : List Instr) : Nat := (program.map (encodedWidth c)).sum

/-- The operations one after the other, each issued when the one before has ended. -/
def execAll (program : List Instr) (s : State) : Host.Outcome State Fault Refusal :=
  match program with
  | [] => .next s
  | i :: rest =>
    match exec i s with
    | .next t => execAll rest t
    | .fault f => .fault f
    | .refused r => .refused r

/-- The answers accept every transfer: each status is at least 1 (R34). -/
abbrev AllAccepted (answers : List Status) : Prop := ∀ a ∈ answers, 1 ≤ a.toInt

/-- The answers are no-data answers (R35). -/
abbrev AllNoData (answers : List RxAnswer) : Prop := ∀ a ∈ answers, a.status.toInt = 0

/-- The answers deliver these bytes, one each, with positive statuses (R35). -/
abbrev Delivers (answers : List RxAnswer) (bytes : List Byte) : Prop :=
  answers.map RxAnswer.data = bytes ∧ ∀ a ∈ answers, 0 < a.status.toInt

/-- The TxByte events of the bytes with their answers. -/
def txEvents (bytes : List Byte) (answers : List Status) : List Event := List.zipWith Event.tx bytes answers

/-- The RxByte events of the answers. -/
def rxEvents (answers : List RxAnswer) : List Event := answers.map Event.rx

/-- The events of the retries of Phase 1: each no-data answer is followed by Sleep(1). -/
def noDataEvents (answers : List RxAnswer) : List Event := answers.flatMap fun a => [Event.rx a, Event.sleep]

/-- One symbol as it arrives: its answers, and the byte they bring. -/
structure RxSymbol where
  answers : List RxAnswer
  value : Byte
deriving DecidableEq, Repr

/-- The answers bring the byte, by the whole rule of R50: one byte that is not the stuff marker, whatever it is, or a
marker and then any byte, which counts with bit 5 inverted. The symbol of R49 is one of the ways. -/
def RxSymbol.ok (x : RxSymbol) : Bool :=
  match x.answers with
  | [] => false
  | [a] => decide (0 < a.status.toInt) && a.data != 0x7D && a.data == x.value
  | [m, a] => decide (0 < m.status.toInt) && m.data == 0x7D && decide (0 < a.status.toInt) && a.data ^^^ 0x20 == x.value
  | _ :: _ :: _ :: _ => false

/-- The answers of symbols, in order. -/
def symbolsAnswers (l : List RxSymbol) : List RxAnswer := l.flatMap RxSymbol.answers

/-- One retry of Phase 4 (R90): a no-data answer where a symbol was to start, or after a stuff marker, which is then
lost (R137). -/
structure Retry where
  marker : Option RxAnswer
  noData : RxAnswer
deriving DecidableEq, Repr

/-- The retry is as its fields say. -/
def Retry.ok (r : Retry) : Bool :=
  decide (r.noData.status.toInt = 0) && r.marker.all fun m => decide (0 < m.status.toInt) && m.data == 0x7D

/-- The answers of a retry. -/
def Retry.answers (r : Retry) : List RxAnswer := r.marker.toList ++ [r.noData]

/-- The answers of retries, in order. -/
def retryAnswers (l : List Retry) : List RxAnswer := l.flatMap Retry.answers

/-- The events of the retries of Phase 4: the answers of each, then Sleep(1). -/
def retryEvents (l : List Retry) : List Event := l.flatMap fun r => rxEvents r.answers ++ [Event.sleep]

/-- How one payload byte arrives: retries, then its symbol. -/
structure Arrival where
  retries : List Retry
  symbol : RxSymbol
deriving DecidableEq, Repr

/-- The byte that arrives. -/
def Arrival.value (a : Arrival) : Byte := a.symbol.value

/-- The arrival is as its fields say. -/
def Arrival.ok (a : Arrival) : Bool := a.retries.all Retry.ok && a.symbol.ok

/-- The answers of arrivals, in order. -/
def arrivalAnswers (l : List Arrival) : List RxAnswer := l.flatMap fun a => retryAnswers a.retries ++ a.symbol.answers

/-- The events of arrivals, in order. -/
def arrivalEvents (l : List Arrival) : List Event :=
  l.flatMap fun a => retryEvents a.retries ++ rxEvents a.symbol.answers

/-- The number of retries in arrivals. -/
def arrivalRetries (l : List Arrival) : Nat := (l.map fun a => a.retries.length).sum

/-- What arrives up to the end of a response's header: no-data answers, the start delimiter, the four header symbols. -/
structure Opening where
  noData : List RxAnswer
  start : RxAnswer
  header : List RxSymbol
  hdr : RxHeader
deriving DecidableEq, Repr

/-- The opening is as its fields say. -/
abbrev Opening.ok (o : Opening) : Prop :=
  AllNoData o.noData ∧ Delivers [o.start] [0x7E] ∧ (∀ x ∈ o.header, x.ok) ∧
  o.header.map RxSymbol.value = headerBytes o.hdr

/-- The answers of an opening, in order. -/
def Opening.answers (o : Opening) : List RxAnswer := o.noData ++ [o.start] ++ symbolsAnswers o.header

/-- The events of an opening, in order. -/
def Opening.events (o : Opening) : List Event := noDataEvents o.noData ++ rxEvents ([o.start] ++ symbolsAnswers o.header)

/-- The number of retries in an opening. -/
def Opening.retries (o : Opening) : Nat := o.noData.length

/-- The header and payload bytes of a response that arrives as o and then p. -/
def responseBytes (o : Opening) (p : List Arrival) : List Byte := headerBytes o.hdr ++ p.map Arrival.value

/-- A symbol that brings no byte (R85): a status of 0 or below on its first read, or on the read after a marker. -/
abbrev BrokenSymbol (answers : List RxAnswer) : Prop :=
  (∃ a, answers = [a] ∧ a.status.toInt ≤ 0) ∨
  (∃ m a, answers = [m, a] ∧ 0 < m.status.toInt ∧ m.data = 0x7D ∧ a.status.toInt ≤ 0)

/-- A transport error where a symbol was to come (R35, R90): on its first read, or on the read after a marker. -/
abbrev ErrorSymbol (answers : List RxAnswer) : Prop :=
  (∃ a, answers = [a] ∧ a.status.toInt < 0) ∨
  (∃ m a, answers = [m, a] ∧ 0 < m.status.toInt ∧ m.data = 0x7D ∧ a.status.toInt < 0)

/-- BUF of t holds the bytes e from address 0 on, and elsewhere reads as in s. -/
abbrev PayloadStored (s t : State) (e : List Byte) : Prop :=
  (∀ k (h : k < e.length), bufByte t k = e[k]) ∧ ∀ a, e.length ≤ a → bufByte t a = bufByte s a

/-- The ports of s with more on them: data bytes, answers of the transport, answers of the sleep timer. -/
def moreInput (s : State) (data : List Byte) (tx : List Status) (rx : List RxAnswer) (sleeps : Nat) : State :=
  { s with
    dataPort := s.dataPort ++ data, txAnswers := s.txAnswers ++ tx, rxAnswers := s.rxAnswers ++ rx,
    sleepAnswers := s.sleepAnswers + sleeps }

/-- The illegal command words, written from R58 and the table of R57. -/
def IllegalWord (cw : CommandWord) : Prop :=
  cw.extractLsb 39 36 = 0x0 ∨ 0xC ≤ (cw.extractLsb 39 36).toNat ∨ cw.extractLsb 35 32 ≠ 0 ∨
  (cw.extractLsb 39 36 = 0x1 ∧ cw.extractLsb 31 8 ≠ 0) ∨
  (cw.extractLsb 39 36 = 0x2 ∧ cw.extractLsb 31 1 ≠ 0) ∨
  (cw.extractLsb 39 36 = 0x3 ∧ cw.extractLsb 31 16 ≠ 0) ∨
  (cw.extractLsb 39 36 = 0x4 ∧ cw.extractLsb 31 16 ≠ 0) ∨
  (cw.extractLsb 39 36 = 0x8 ∧ cw.extractLsb 31 16 ≠ 0) ∨
  (cw.extractLsb 39 36 = 0x9 ∧ cw.extractLsb 31 24 ≠ 0) ∨
  (cw.extractLsb 39 36 = 0xA ∧ cw.extractLsb 31 0 ≠ 0) ∨
  (cw.extractLsb 39 36 = 0xB ∧ cw.extractLsb 31 24 ≠ 0)

/-- The command port is ready and the reset line released (D2): the next step takes the host's next move. -/
abbrev Ready (s : State) : Prop := Idle s ∧ s.fault = .noFault ∧ s.resetInput = false

/-- Every byte below n has been written since reset (R30). -/
abbrev WrittenBelow (s : State) (n : Nat) : Prop := ∀ a < n, (Memory.find s.buf a).isSome = true

/-- BUF is in canonical form and within its address space (R30). -/
abbrev BufInv (s : State) : Prop := Memory.wf s.buf = true ∧ ∀ c ∈ s.buf, c.1 < s.cfg.capacity

/-- A request under construction (R21, R28 b, R30): the header is written, OFFSET >= 3, CHECKSUM = 0, and
LAST_IO_STATUS is still the 0 that `begin_stream` set. -/
abbrev BuildInv (s : State) : Prop :=
  3 ≤ s.offset.toNat ∧ s.checksum = 0 ∧ s.lastIoStatus = 0 ∧ WrittenBelow s s.offset.toNat

/-- After a `write_request` that returned 0 (R79). -/
abbrev SentInv (s : State) : Prop :=
  s.result = 0 ∧ s.io = .writer ∧ s.checksum = 0xFF ∧ 1 ≤ s.lastIoStatus.toInt

/-- After a `read_response` that returned 0 (R33, R94). -/
abbrev ReceivedInv (s : State) : Prop :=
  s.result = 0 ∧ s.io = .reader ∧ s.checksum = 0xFF ∧ 0 < s.lastIoStatus.toInt ∧
  s.offset.toNat = s.hdr.dataLen.toNat ∧ s.hdr.dataLen.toNat ≤ s.explen.toNat ∧
  s.hdr.state &&& 0x7F = 0 ∧ WrittenBelow s s.offset.toNat

/-- What holds of the registers between operations, by MODE (R21). -/
def ModeInv (s : State) : Prop :=
  match s.mode with
  | .unbound => True
  | .build => BuildInv s
  | .sent => SentInv s
  | .received => ReceivedInv s
  | .invalid => True

/-- While `write_request` waits: the request it sends is the one it checked (R76). -/
abbrev SendInv (s : State) : Prop :=
  s.mode = .build ∧ s.io = .writer ∧ s.copyLength = 0 ∧ s.offset.toNat = (bufByte s 2).toNat + 3 ∧
  WrittenBelow s s.offset.toNat

/-- The position stands inside the symbol of b. -/
abbrev InSymbol (p : Pos) (b : Byte) : Prop := p = .txFirst b ∨ (p = .txSecond b ∧ reservedByte b = true)

/-- While `read_response` waits: the payload stored so far is counted by OFFSET (R14). -/
abbrev ReceiveInv (s : State) : Prop := s.io = .reader ∧ s.copyLength = 0 ∧ WrittenBelow s s.offset.toNat

/-- Where an operation in progress can wait, phase by phase. -/
def PhaseInv (s : State) : Prop :=
  match s.phase with
  | .idle => False
  | .copy =>
    s.mode = .build ∧ s.pos = .start ∧ s.checksum = 0 ∧ s.lastIoStatus = 0 ∧ 3 ≤ s.offset.toNat ∧
    s.idx.toNat < s.copyLength.toNat ∧ s.offset.toNat + s.copyLength.toNat ≤ s.cfg.capacity ∧
    WrittenBelow s (s.offset.toNat + s.idx.toNat)
  | .txCheck => False
  | .txStart => SendInv s ∧ s.idx = 0 ∧ s.pos = .start ∧ s.checksum = 0
  | .txBody =>
    SendInv s ∧ s.idx.toNat < s.offset.toNat ∧ InSymbol s.pos (bufByte s s.idx.toNat) ∧
    s.checksum = sumBytes (bufPrefix s (s.idx.toNat + 1))
  | .txCsum =>
    SendInv s ∧ s.idx = 0 ∧ InSymbol s.pos (checksumByte (bufPrefix s s.offset.toNat)) ∧ s.checksum = 0xFF
  | .txStop => SendInv s ∧ s.idx = 0 ∧ s.pos = .start ∧ s.checksum = 0xFF
  | .rxP1 =>
    ReceiveInv s ∧ s.idx = 0 ∧ (s.pos = .start ∨ s.pos = .sleeping) ∧ 0 < s.budget.toNat ∧ s.offset = 0 ∧
    s.checksum = 0
  | .rxP2 =>
    ReceiveInv s ∧ s.idx.toNat < 4 ∧ (s.pos = .start ∨ s.pos = .rxSecond) ∧ 0 < s.budget.toNat ∧ s.offset = 0
  | .rxP3 => False
  | .rxP4 =>
    ReceiveInv s ∧ s.idx = 0 ∧
    (s.pos = .sleeping ∨ ((s.pos = .start ∨ s.pos = .rxSecond) ∧ 0 < s.budget.toNat)) ∧
    s.offset.toNat < s.hdr.dataLen.toNat ∧ s.hdr.dataLen.toNat ≤ s.explen.toNat
  | .rxP5 =>
    ReceiveInv s ∧ s.idx = 0 ∧ (s.pos = .start ∨ s.pos = .rxSecond) ∧
    s.offset.toNat = s.hdr.dataLen.toNat ∧ s.hdr.dataLen.toNat ≤ s.explen.toNat
  | .rxP6 => False
  | .rxP7 =>
    ReceiveInv s ∧ s.idx = 0 ∧ s.pos = .start ∧ s.offset.toNat = s.hdr.dataLen.toNat ∧
    s.hdr.dataLen.toNat ≤ s.explen.toNat ∧ s.checksum = 0xFF ∧ s.hdr.state &&& 0x7F = 0

/-- The transport's answers waiting on the ports are STATUS_W bits wide (R6). -/
abbrev StatusPortsFit (s : State) : Prop :=
  (∀ a ∈ s.txAnswers, signedFits s.cfg.statusW a) ∧ ∀ a ∈ s.rxAnswers, signedFits s.cfg.statusW a.status

/-- Every register whose width is a parameter of R6 holds a value of that width: OFFSET, BUDGET, EXPLEN, LAST_IO_STATUS,
RESULT, and the operand of an `add_bytes` in progress. -/
abbrev WidthsHold (s : State) : Prop :=
  s.offset.toNat < 2 ^ s.cfg.offsetW ∧ s.budget.toNat < 2 ^ s.cfg.timeoutW ∧ s.explen.toNat < 2 ^ s.cfg.expLenW ∧
  s.copyLength.toNat < 2 ^ s.cfg.lenW ∧ signedFits s.cfg.statusW s.lastIoStatus ∧ signedFits s.cfg.statusW s.result

/-- RESULT holds 0 or one of the seven codes (R18, R106). -/
def ResultInv (s : State) : Prop := s.result = 0 ∨ ∃ e, s.result = errorCode s.cfg.errorCodes e

/-- The invariant of the machine: what every state a run reaches satisfies. -/
structure Inv (s : State) : Prop where
  /-- The parameters are as R6 and R106 ask. -/
  config : s.cfg.wf = true
  buf : BufInv s
  /-- OFFSET never exceeds CAPACITY (R14, R82 d). -/
  offset : s.offset.toNat ≤ s.cfg.capacity
  result : ResultInv s
  /-- A held fault leaves the block idle and the state invalid (R118). -/
  fault : s.fault ≠ .noFault → s.busy = false ∧ s.mode = .invalid
  /-- Between operations the sequencer is at rest and the registers are as MODE says. -/
  idle : s.busy = false → Idle s ∧ ModeInv s
  /-- While BUSY = 1 an operation waits at a place its rule gives. -/
  busy : s.busy = true → PhaseInv s

end Sys2Proof.Machine
end

