-- ==== Sys2Proof/Certificates/Slice0/Obligations.lean ====
section
/-! DEFINITION. The statements for the provers, each a proposition about every state unless it says otherwise. -/

open Sys2Proof Sys2Proof.Machine

/-! ### Encodings -/

/-- R55 to R57: decoding the command word of any operation gives it back, with every operand at every value. -/
def Obligations.DecodeInvertsEncode : Prop := ∀ i : Instr, decode (encode i) = .ok i

/-- R55 to R57: a word that decodes to an operation is that operation's word: no operation has two words. -/
def Obligations.EncodeInvertsDecode : Prop := ∀ (cw : CommandWord) (i : Instr), decode cw = .ok i → encode i = cw

/-- R58: every 40-bit word matches exactly one row of the opcode table, that of the operation it decodes to, or no row,
and is then refused. -/
def Obligations.EveryWordIsOneRowOrIllegal : Prop :=
  ∀ cw : CommandWord,
    (∃ i, decode cw = .ok i ∧ opcodeTable.filter (fun r => r.matches cw) = [rowOf i]) ∨
    ((∃ e, decode cw = .error e) ∧ opcodeTable.filter (fun r => r.matches cw) = [])

/-- R58, R117, R118: exactly the words R58 lists are refused, and presenting one raises IllegalOp: FAULT and MODE are
written and the word is taken; nothing else changes. That MODE is among what changes is the model's reading of R118
beside R58 (log entry 12). -/
def Obligations.IllegalWordRaisesIllegalOp : Prop :=
  ∀ cw : CommandWord,
    (IllegalWord cw ↔ ∃ e, decode cw = .error e) ∧
    ∀ (s : State) (rest : List HostMove), Ready s → s.host = .command cw :: rest → IllegalWord cw →
      step s = .next { s with host := rest, fault := .illegalOp, mode := .invalid }

/-- R6, R58, R117, R118: with LEN_W, EXPLEN_W or TIMEOUT_W below its operand's field of R57, a word whose operand does
not fit is illegal: it raises IllegalOp and runs nothing. That a bit above the width counts as an unused bit is the
model's choice (log entry 6), and that MODE is written beside FAULT its reading of R118 beside R58 (log entry 12). -/
def Obligations.OperandBeyondItsWidthIsIllegal : Prop :=
  ∀ (s : State) (cw : CommandWord) (rest : List HostMove) (i : Instr),
    Ready s → s.host = .command cw :: rest → decode cw = .ok i →
    (∃ length, i = .addBytes length ∧ 2 ^ s.cfg.lenW ≤ length.toNat) ∨
      (∃ e limit, i = .readResponse e limit ∧ (2 ^ s.cfg.expLenW ≤ e.toNat ∨ 2 ^ s.cfg.timeoutW ≤ limit.toNat)) →
    step s = .next { s with host := rest, fault := .illegalOp, mode := .invalid }

/-- R56, R57: words of the spec's vectors and programs, one for each operation, decode to their operations. -/
def Obligations.SampleWordsDecode : Prop :=
  decode 0x100000007E = .ok (.addU8 0x7E) ∧ decode 0x2000000001 = .ok (.addBool 1) ∧
  decode 0x3000001234 = .ok (.addU16 0x1234) ∧ decode 0x400000FFFE = .ok (.addI16 0xFFFE) ∧
  decode 0x5011137D7E = .ok (.addU32 0x11137D7E) ∧ decode 0x60FFFFFFFE = .ok (.addI32 0xFFFFFFFE) ∧
  decode 0x703F800000 = .ok (.addFloat 0x3F800000) ∧ decode 0x8000000002 = .ok (.addBytes 2) ∧
  decode 0x9000140021 = .ok (.beginStream 0x21 0x00 0x14) ∧ decode 0xA000000000 = .ok .writeRequest ∧
  decode 0xB000006403 = .ok (.readResponse 3 100)

/-! ### The step -/

/-- R55: when the port is ready and the host presents a legal word whose operands fit the parameters' widths, the step
takes the word off the port and is exec of its operation; at the reference widths every operand fits. -/
def Obligations.StepRunsDecodedOperation : Prop :=
  ∀ (s : State) (cw : CommandWord) (rest : List HostMove) (i : Instr),
    Ready s → s.host = .command cw :: rest → decode cw = .ok i →
    (i.wf s.cfg → step s = exec i { s with host := rest }) ∧
    (s.cfg.lenW = 16 → s.cfg.expLenW = 8 → s.cfg.timeoutW = 16 → i.wf s.cfg)

/-- R24, R118, R119: while a fault is held no command is accepted, and no step but a reset clears or changes the
fault. -/
def Obligations.HeldFaultStaysUntilReset : Prop :=
  ∀ s : State, s.fault ≠ .noFault → s.resetInput = false →
    (∀ cw rest, s.busy = false → s.host = .command cw :: rest → step s = .next s) ∧
    ∀ t, step s = .next t → t.fault = s.fault

/-- R25, R43, R132: while an operation is in progress the host's next move waits and the host reads no byte of BUF. R21:
MODE keeps its value until the operation ends. -/
def Obligations.BusyBlockTakesNoHostMove : Prop :=
  ∀ s t : State, s.busy = true → s.resetInput = false → step s = .next t →
    t.host = s.host ∧ (∀ a, hostRead a s = none) ∧ (t.busy = true → t.mode = s.mode)

/-- R21: an accepted operation that has not ended has not written MODE. -/
def Obligations.ModeIsWrittenOnlyAtTheEnd : Prop :=
  ∀ (i : Instr) (s t : State), exec i s = .next t → t.busy = true → t.mode = s.mode

/-- R43, R30: a host write through the buffer port, between operations, changes that byte of BUF and nothing else, a
held fault or not, and the host reads back what it wrote. At an address of CAPACITY or more, which R30 says does not
exist, the model stops, and there is nothing to read (log entries 10 and 14). -/
def Obligations.HostWriteChangesOneByte : Prop :=
  ∀ (s : State) (a : BitVec 16) (v : Byte) (rest : List HostMove),
    s.busy = false → s.resetInput = false → s.host = .writeBuf a v :: rest →
    (a.toNat < s.cfg.capacity →
      ∃ t, step s = .next t ∧ t = { s with host := rest, buf := t.buf } ∧ hostRead a t = some v ∧
        bufByte t a.toNat = v ∧ ∀ b, b ≠ a.toNat → bufByte t b = bufByte s b) ∧
    (s.cfg.capacity ≤ a.toNat → step s = .fault (.noSuchAddress a.toNat) ∧ hostRead a s = none)

/-- R129, R29: the reset input, in any state and with an operation in progress too, forces every register the table of
R29 gives a value to that value, leaves no byte of BUF written, issues no event, and leaves the agents' side of the
ports alone (the last two are the model's choice, log entries 9, 20 and 27). -/
def Obligations.ResetInputResetsTheBlock : Prop :=
  ∀ s : State, s.resetInput = true →
    ∃ t, step s = .next t ∧
      t.offset = 0 ∧ t.checksum = 0 ∧ t.lastIoStatus = 0 ∧ t.result = 0 ∧ t.budget = 0 ∧ t.explen = 0 ∧ t.idx = 0 ∧
      t.io = .unbound ∧ t.mode = .unbound ∧ t.fault = .noFault ∧ t.busy = false ∧ t.phase = .idle ∧
      (∀ a, Memory.find t.buf a = none) ∧ t.events = s.events ∧ t.host = s.host ∧ t.dataPort = s.dataPort ∧
      t.txAnswers = s.txAnswers ∧ t.rxAnswers = s.rxAnswers ∧ t.sleepAnswers = s.sleepAnswers ∧ t.cfg = s.cfg ∧
      t.resetInput = false

/-- R129, D2: with nothing presented by the host an idle block waits: the step changes nothing. -/
def Obligations.IdleBlockWaits : Prop :=
  ∀ s : State, s.busy = false → s.resetInput = false → s.host = [] → step s = .next s

/-! ### The serializer -/

/-- R63: the append step. Misuse outside BUILD; BufferOverrun, with no byte written and OFFSET unchanged, when the bytes
do not fit; else the bytes are appended and nothing else changes. -/
def Obligations.AppendStep : Prop :=
  ∀ (s : State) (e : List Byte), Idle s → s.fault = .noFault →
    (s.mode ≠ .build → append e s = .stop { s with fault := .misuse, mode := .invalid }) ∧
    (s.mode = .build → s.cfg.capacity < s.offset.toNat + e.length →
      append e s = .stop { s with fault := .bufferOverrun, mode := .invalid }) ∧
    (s.mode = .build → s.offset.toNat + e.length ≤ s.cfg.capacity → ∃ t, append e s = .stop t ∧ Appended s t e)

/-- R64, R65: `add_u8` appends its byte as it is, `add_bool` the byte 1 or 0. -/
def Obligations.ByteAndBoolAppend : Prop :=
  ∀ s : State, Idle s → s.mode = .build → s.offset.toNat + 1 ≤ s.cfg.capacity →
    (∀ v, ∃ t, exec (.addU8 v) s = .next t ∧ Appended s t [v]) ∧
    (∃ t, exec (.addBool 1) s = .next t ∧ Appended s t [0x01]) ∧
    (∃ t, exec (.addBool 0) s = .next t ∧ Appended s t [0x00])

/-- R66, R67, R37: the 16-bit operations append the two bytes of the pattern, high byte first when BYTE_ORDER is big and
last when it is little. -/
def Obligations.SixteenBitAppend : Prop :=
  ∀ (s : State) (v : BitVec 16), Idle s → s.mode = .build → s.offset.toNat + 2 ≤ s.cfg.capacity →
    ∀ i ∈ [Instr.addU16 v, Instr.addI16 v],
      (s.cfg.byteOrder = .big → ∃ t, exec i s = .next t ∧ Appended s t [v.extractLsb 15 8, v.extractLsb 7 0]) ∧
      (s.cfg.byteOrder = .little → ∃ t, exec i s = .next t ∧ Appended s t [v.extractLsb 7 0, v.extractLsb 15 8])

/-- R68, R69, R37: the 32-bit operations append the four bytes of the pattern, high byte first when BYTE_ORDER is big
and last when it is little. -/
def Obligations.ThirtyTwoBitAppend : Prop :=
  ∀ (s : State) (v : BitVec 32), Idle s → s.mode = .build → s.offset.toNat + 4 ≤ s.cfg.capacity →
    ∀ i ∈ [Instr.addU32 v, Instr.addI32 v],
      (s.cfg.byteOrder = .big → ∃ t, exec i s = .next t ∧
        Appended s t [v.extractLsb 31 24, v.extractLsb 23 16, v.extractLsb 15 8, v.extractLsb 7 0]) ∧
      (s.cfg.byteOrder = .little → ∃ t, exec i s = .next t ∧
        Appended s t [v.extractLsb 7 0, v.extractLsb 15 8, v.extractLsb 23 16, v.extractLsb 31 24])

/-- R70, R37, R6: `add_float` appends its pattern bit for bit in FLOAT_W bytes, whatever number it encodes: the four
bytes of the pattern at the reference FLOAT_W = 4; at another width the low bytes, with zeros above (G2, log entry 6).
-/
def Obligations.FloatAppend : Prop :=
  ∀ (s : State) (v : BitVec 32), Idle s → s.mode = .build → s.offset.toNat + s.cfg.floatW ≤ s.cfg.capacity →
    (∃ t, exec (.addFloat v) s = .next t ∧ Appended s t (appendedBytes s.cfg (.addFloat v) [])) ∧
    (s.cfg.floatW = 4 → appendedBytes s.cfg (.addFloat v) [] =
      inOrder s.cfg [v.extractLsb 31 24, v.extractLsb 23 16, v.extractLsb 15 8, v.extractLsb 7 0])

/-- R71: `add_bytes` appends exactly `length` bytes of the data port, in order, and leaves the others there; a length of
0 changes nothing. That surplus bytes stay is the model's choice (log entry 5). -/
def Obligations.AddBytesAppendsTheData : Prop :=
  ∀ (s : State) (length : BitVec 16) (e rest : List Byte),
    Idle s → s.mode = .build → s.offset.toNat + length.toNat ≤ s.cfg.capacity → s.dataPort = e ++ rest →
    e.length = length.toNat →
    (∃ t, exec (.addBytes length) s = .next t ∧ Appended { s with dataPort := rest } t e) ∧
    (length = 0 → exec (.addBytes length) s = .next s)

/-- R71, R132, U19: with fewer than `length` bytes on the data port `add_bytes` takes them all, copies them to BUF
from OFFSET upward in order, and waits in COPY with IDX counting them; OFFSET has not moved and no byte outside the
room of the append has changed. That the bytes are taken as they come, and the field that keeps the operand, are the
model's choice (log entries 3 and 25). -/
def Obligations.AddBytesWaitsForData : Prop :=
  ∀ (s : State) (length : BitVec 16),
    Idle s → s.mode = .build → s.offset.toNat + length.toNat ≤ s.cfg.capacity → s.dataPort.length < length.toNat →
    ∃ t, exec (.addBytes length) s = .next t ∧
      t = { s with
        buf := t.buf, busy := true, phase := .copy, copyLength := length, idx := BitVec.ofNat 16 s.dataPort.length,
        dataPort := [] } ∧
      (∀ k (h : k < s.dataPort.length), bufByte t (s.offset.toNat + k) = s.dataPort[k]) ∧
      ∀ a, a < s.offset.toNat ∨ s.offset.toNat + length.toNat ≤ a → bufByte t a = bufByte s a

/-- R21, R117: a writer operation or `write_request` outside BUILD raises Misuse and does nothing else. That the data
bytes presented for an `add_bytes` stay on the data port is the model's choice (log entry 27). -/
def Obligations.MisuseOutsideBuild : Prop :=
  ∀ (i : Instr) (s : State), isWriter i = true ∨ i = .writeRequest → Idle s → s.fault = .noFault → s.mode ≠ .build →
    exec i s = .next { s with fault := .misuse, mode := .invalid }

/-- R63, R117: a writer operation whose bytes do not fit raises BufferOverrun: no byte is written and OFFSET is
unchanged. Nothing is taken from the data port, where the bytes presented for an `add_bytes` stay: that is the model's
choice (log entry 27). -/
def Obligations.OverrunWritesNothing : Prop :=
  ∀ (i : Instr) (s : State), isWriter i = true → Idle s → s.fault = .noFault → s.mode = .build →
    s.cfg.capacity < s.offset.toNat + encodedWidth s.cfg i →
    exec i s = .next { s with fault := .bufferOverrun, mode := .invalid }

/-- R63: whatever a writer operation does, it leaves CHECKSUM, LAST_IO_STATUS, IO, RESULT, HDR, BUDGET, EXPLEN, the
transport, the sleep timer, the events and the parameters alone, and every byte of BUF outside its room. -/
def Obligations.WriterFrame : Prop :=
  ∀ (i : Instr) (s t : State), isWriter i = true → exec i s = .next t →
    t.checksum = s.checksum ∧ t.lastIoStatus = s.lastIoStatus ∧ t.io = s.io ∧ t.result = s.result ∧ t.hdr = s.hdr ∧
    t.budget = s.budget ∧ t.explen = s.explen ∧ t.txAnswers = s.txAnswers ∧ t.rxAnswers = s.rxAnswers ∧
    t.sleepAnswers = s.sleepAnswers ∧ t.events = s.events ∧ t.host = s.host ∧ t.resetInput = s.resetInput ∧
    t.resets = s.resets ∧ t.cfg = s.cfg ∧
    ∀ a, a < s.offset.toNat ∨ s.offset.toNat + encodedWidth s.cfg i ≤ a → bufByte t a = bufByte s a

/-- R72: a sequence of writer operations that fits and has its data appends the concatenation of their encodings in
issue order, OFFSET grows by the sum of their widths, and nothing else changes, with either BYTE_ORDER and any
FLOAT_W. The data of all its `add_bytes` stands on the data port from the start, each taking its bytes and leaving the
others: that is the model's queue (log entry 5), not a rule of the spec. -/
def Obligations.WriterProgramConcatenates : Prop :=
  ∀ (program : List Instr) (s : State), (∀ i ∈ program, isWriter i = true) → Idle s → s.mode = .build →
    s.cfg.capacity ≤ 65535 → s.offset.toNat + totalWidth s.cfg program ≤ s.cfg.capacity →
    (program.map Instr.dataCount).sum ≤ s.dataPort.length →
    ∃ t, execAll program s = .next t ∧
      Appended { s with dataPort := s.dataPort.drop (program.map Instr.dataCount).sum } t
        (appendedByAll s.cfg program s.dataPort) ∧
      (appendedByAll s.cfg program s.dataPort).length = totalWidth s.cfg program

/-! ### The encoder -/

/-- R74: in every MODE `begin_stream` writes the address to BUF[0], the command to BUF[1] and the length to BUF[2], sets
OFFSET = 3, clears CHECKSUM and LAST_IO_STATUS, enters BUILD, and changes nothing else. -/
def Obligations.BeginStreamComposesTheHeader : Prop :=
  ∀ (s : State) (command address dataLength : Byte), Idle s → 3 ≤ s.cfg.capacity →
    ∃ t, exec (.beginStream command address dataLength) s = .next t ∧
      t = { s with buf := t.buf, offset := 3, checksum := 0, lastIoStatus := 0, mode := .build } ∧
      bufByte t 0 = address ∧ bufByte t 1 = command ∧ bufByte t 2 = dataLength ∧
      ∀ a, 3 ≤ a → bufByte t a = bufByte s a

/-- R75, R49: the byte stuffer. The unstuffed byte is accumulated; with its transfers accepted the symbol of R49 goes
out byte by byte; the first refused transfer ends the operation and what follows it is not sent. -/
def Obligations.StuffAndWriteStep : Prop :=
  ∀ (b : Byte) (s : State) (acc rest : List Status), s.pos = .start → AllAccepted acc →
    (acc.length = (symbol b).length → s.txAnswers = acc ++ rest →
      stuffAndWrite b s = .go { s with
        checksum := s.checksum + b, txAnswers := rest, lastIoStatus := acc.getLastD 0,
        events := s.events ++ txEvents (symbol b) acc }) ∧
    (∀ bad : Status, acc.length < (symbol b).length → bad.toInt < 1 → s.txAnswers = acc ++ [bad] ++ rest →
      stuffAndWrite b s = .stop (fail .transmitIncomplete { s with
        checksum := s.checksum + b, txAnswers := rest, lastIoStatus := bad,
        events := s.events ++ txEvents (symbol b) (acc ++ [bad]) }))

/-- R49, R46: between its delimiters a frame holds no raw 0x7E, 0x11 or 0x13, and 0x7D only as a marker before the
inverted byte: R50 read on the symbols gives the bytes back. -/
def Obligations.FrameInteriorIsTransparent : Prop :=
  (∀ bytes : List Byte, ∀ x ∈ stuffed bytes, x ≠ 0x7E ∧ x ≠ 0x11 ∧ x ≠ 0x13) ∧
  ∀ b : Byte, symbol b = [b] ∧ b ≠ 0x7D ∨ ∃ x, symbol b = [0x7D, x] ∧ x ^^^ 0x20 = b ∧ symbol x = [x]

/-- R52, R61, R81: the bytes of a frame with its checksum byte sum to 0xFF, and its wire length is the number of header
and payload bytes, plus three, plus the number of reserved values among them and the checksum byte. -/
def Obligations.FrameSumAndLength : Prop :=
  ∀ bytes : List Byte,
    sumBytes (bytes ++ [checksumByte bytes]) = 0xFF ∧
    (frameOf bytes).length = bytes.length + 3 + (bytes ++ [checksumByte bytes]).countP
      (fun b => b == 0x11 || b == 0x13 || b == 0x7D || b == 0x7E)

/-- R76, R79, R81: with every transfer accepted `write_request` transmits exactly the request frame of the OFFSET bytes
of BUF, one TxByte for each of its bytes and no other event, and returns 0; CHECKSUM ends at 0xFF; BUF, OFFSET, HDR and
everything else are unchanged. -/
def Obligations.WriteRequestSendsTheFrame : Prop :=
  ∀ (s : State) (acc rest : List Status), Idle s → s.mode = .build → s.checksum = 0 →
    s.offset.toNat ≤ s.cfg.capacity → s.offset.toNat = (bufByte s 2).toNat + 3 →
    AllAccepted acc → acc.length = (frameOf (bufPrefix s s.offset.toNat)).length → s.txAnswers = acc ++ rest →
    exec .writeRequest s = .next { s with
      io := .writer, checksum := 0xFF, lastIoStatus := acc.getLastD 0, result := 0, mode := .sent, txAnswers := rest,
      events := s.events ++ txEvents (frameOf (bufPrefix s s.offset.toNat)) acc }

/-- R77: a payload of another length than BUF[2] declares fails with EncodingError before any TxByte, for every BUF[2]
when OFFSET - 3 exceeds 255; IO, RESULT and MODE are all that changes. -/
def Obligations.WriteRequestLengthMismatch : Prop :=
  ∀ s : State, Idle s → s.mode = .build → 3 ≤ s.cfg.capacity →
    (s.offset.toNat ≠ (bufByte s 2).toNat + 3 →
      exec .writeRequest s = .next { s with
        io := .writer, result := s.cfg.errorCodes.encodingError, mode := .invalid }) ∧
    (255 < (s.offset.toNat : Int) - 3 → s.offset.toNat ≠ (bufByte s 2).toNat + 3)

/-- R78: the first refused transfer ends `write_request` with TransmitIncomplete: nothing later is offered, the refusing
status stays in LAST_IO_STATUS, and the wire has a proper prefix of the frame. BUF, OFFSET and HDR are unchanged. -/
def Obligations.WriteRequestAbortsOnRefusal : Prop :=
  ∀ (s : State) (acc rest : List Status) (bad : Status), Idle s → s.mode = .build → s.checksum = 0 →
    s.offset.toNat ≤ s.cfg.capacity → s.offset.toNat = (bufByte s 2).toNat + 3 →
    AllAccepted acc → bad.toInt < 1 → acc.length < (frameOf (bufPrefix s s.offset.toNat)).length →
    s.txAnswers = acc ++ [bad] ++ rest →
    ∃ t, exec .writeRequest s = .next t ∧
      t = { s with
        io := .writer, checksum := t.checksum, lastIoStatus := bad, mode := .invalid, txAnswers := rest,
        result := s.cfg.errorCodes.transmitIncomplete,
        events := s.events ++ txEvents (frameOf (bufPrefix s s.offset.toNat)) (acc ++ [bad]) } ∧
      wireOutput (txEvents (frameOf (bufPrefix s s.offset.toNat)) (acc ++ [bad])) =
        (frameOf (bufPrefix s s.offset.toNat)).take acc.length

/-- R76: whatever `write_request` does, ended or waiting, BUF, OFFSET, HDR, BUDGET, EXPLEN, the data port, the receive
side, the sleep timer and the host's moves are unchanged; a fault it raises is Misuse and then it has issued no event.
-/
def Obligations.WriteRequestFrame : Prop :=
  ∀ s t : State, exec .writeRequest s = .next t →
    t.buf = s.buf ∧ t.offset = s.offset ∧ t.hdr = s.hdr ∧ t.budget = s.budget ∧ t.explen = s.explen ∧
    t.dataPort = s.dataPort ∧ t.rxAnswers = s.rxAnswers ∧ t.sleepAnswers = s.sleepAnswers ∧ t.host = s.host ∧
    t.resetInput = s.resetInput ∧ t.resets = s.resets ∧ t.cfg = s.cfg ∧
    (t.fault ≠ s.fault → t.fault = .misuse ∧ t.events = s.events ∧ t.result = s.result)

/-- R80: `write_request` issues at most 2 + 2 (OFFSET + 1) events, all of them TxByte. -/
def Obligations.WriteRequestEventBound : Prop :=
  ∀ s t : State, exec .writeRequest s = .next t →
    ∃ new, t.events = s.events ++ new ∧ new.length ≤ 2 + 2 * (s.offset.toNat + 1) ∧
      ∀ e ∈ new, ∃ b status, e = .tx b status

/-! ### The decoder -/

/-- R85, R50: the un-stuff step on a symbol from its start. No byte on the first read: nothing accumulated. A byte that
is not the marker: itself. A marker and then no byte: the marker is lost, nothing accumulated. A marker and then any
byte: that byte with bit 5 inverted. The value is accumulated. -/
def Obligations.UnstuffStep : Prop :=
  ∀ (s : State) (a a2 : RxAnswer) (rest : List RxAnswer), s.pos = .start →
    (a.status.toInt ≤ 0 → s.rxAnswers = a :: rest →
      unstuff s = .got none { s with rxAnswers := rest, lastIoStatus := a.status, events := s.events ++ [.rx a] }) ∧
    (0 < a.status.toInt → a.data ≠ 0x7D → s.rxAnswers = a :: rest →
      unstuff s = .got (some a.data) { s with
        rxAnswers := rest, lastIoStatus := a.status, events := s.events ++ [.rx a],
        checksum := s.checksum + a.data }) ∧
    (0 < a.status.toInt → a.data = 0x7D → a2.status.toInt ≤ 0 → s.rxAnswers = a :: a2 :: rest →
      unstuff s = .got none { s with
        rxAnswers := rest, lastIoStatus := a2.status, events := s.events ++ [.rx a, .rx a2] }) ∧
    (0 < a.status.toInt → a.data = 0x7D → 0 < a2.status.toInt → s.rxAnswers = a :: a2 :: rest →
      unstuff s = .got (some (a2.data ^^^ 0x20)) { s with
        rxAnswers := rest, lastIoStatus := a2.status, events := s.events ++ [.rx a, .rx a2],
        checksum := s.checksum + (a2.data ^^^ 0x20) })

/-- R86 to R94, R50, R96: a response whose opening, payload, checksum byte and stop delimiter arrive, with fewer no-data
answers than max_timeout_ms before the start delimiter and in the payload, is received in every MODE: HDR, the payload
in BUF, OFFSET = data_len, CHECKSUM = 0xFF, RESULT 0, one Sleep(1) and one unit of BUDGET for each no-data answer, the
events in order, what follows the frame unread, and nothing else changed. A symbol may come in any form R50 reads, a raw
reserved byte and an escaped value that is not reserved among them (V42). -/
def Obligations.ReadResponseReceives : Prop :=
  ∀ (s : State) (e : Byte) (limit : BitVec 16) (o : Opening) (p : List Arrival) (c : RxSymbol)
    (stop : RxAnswer) (rest : List RxAnswer),
    Idle s → o.ok → (∀ a ∈ p, a.ok) → p.length = o.hdr.dataLen.toNat → o.hdr.dataLen.toNat ≤ e.toNat →
    o.hdr.dataLen.toNat ≤ s.cfg.capacity → o.hdr.state &&& 0x7F = 0 →
    c.ok → c.value = checksumByte (responseBytes o p) → Delivers [stop] [0x7E] →
    o.retries + arrivalRetries p < limit.toNat → o.retries + arrivalRetries p ≤ s.sleepAnswers →
    s.rxAnswers = o.answers ++ arrivalAnswers p ++ c.answers ++ [stop] ++ rest →
    ∃ t, exec (.readResponse e limit) s = .next t ∧
      t = { s with
        buf := t.buf, offset := BitVec.ofNat 16 p.length, checksum := 0xFF, lastIoStatus := stop.status,
        io := .reader, hdr := o.hdr, result := 0, mode := .received, explen := e,
        budget := limit - BitVec.ofNat 16 (o.retries + arrivalRetries p),
        sleepAnswers := s.sleepAnswers - (o.retries + arrivalRetries p), rxAnswers := rest,
        events := s.events ++ o.events ++ arrivalEvents p ++ rxEvents (c.answers ++ [stop]) } ∧
      PayloadStored s t (p.map Arrival.value)

/-- R87, R109: a transport that answers no-data max_timeout_ms times, with max_timeout_ms = 0 one that is not asked,
makes `read_response` fail with MissingStart after exactly that many reads and sleeps; BUF and HDR are unchanged. -/
def Obligations.SilentTransportIsMissingStart : Prop :=
  ∀ (s : State) (e : Byte) (limit : BitVec 16) (z rest : List RxAnswer),
    Idle s → AllNoData z → z.length = limit.toNat → limit.toNat ≤ s.sleepAnswers → s.rxAnswers = z ++ rest →
    exec (.readResponse e limit) s = .next { s with
      offset := 0, checksum := 0, lastIoStatus := 0, io := .reader, result := s.cfg.errorCodes.missingStart,
      mode := .invalid, explen := e, budget := 0, sleepAnswers := s.sleepAnswers - limit.toNat, rxAnswers := rest,
      events := s.events ++ noDataEvents z }

/-- R87, R109, R138: a transport error, or a first byte that is not 0x7E, in Phase 1 is MissingStart at once: the byte
is consumed, nothing after it is read, no further retry is made. -/
def Obligations.FailedSynchronisationIsMissingStart : Prop :=
  ∀ (s : State) (e : Byte) (limit : BitVec 16) (z : List RxAnswer) (a : RxAnswer) (rest : List RxAnswer),
    Idle s → AllNoData z → z.length < limit.toNat → z.length ≤ s.sleepAnswers →
    (a.status.toInt < 0 ∨ (0 < a.status.toInt ∧ a.data ≠ 0x7E)) → s.rxAnswers = z ++ [a] ++ rest →
    exec (.readResponse e limit) s = .next { s with
      offset := 0, checksum := 0, lastIoStatus := a.status, io := .reader,
      result := s.cfg.errorCodes.missingStart, mode := .invalid, explen := e,
      budget := limit - BitVec.ofNat 16 z.length, sleepAnswers := s.sleepAnswers - z.length, rxAnswers := rest,
      events := s.events ++ noDataEvents z ++ rxEvents [a] }

/-- R88, R110, R139: a header symbol that brings no byte is MissingStop without a retry, a no-data answer included: the
header registers before it hold the new frame's bytes, the others what they held; BUF is unchanged. -/
def Obligations.BrokenHeaderIsMissingStop : Prop :=
  ∀ (s : State) (e : Byte) (limit : BitVec 16) (z : List RxAnswer) (start : RxAnswer) (h : List RxSymbol)
    (broken rest : List RxAnswer),
    Idle s → AllNoData z → z.length < limit.toNat → z.length ≤ s.sleepAnswers → Delivers [start] [0x7E] →
    h.length < 4 → (∀ x ∈ h, x.ok) → BrokenSymbol broken →
    s.rxAnswers = z ++ [start] ++ symbolsAnswers h ++ broken ++ rest →
    ∃ t, exec (.readResponse e limit) s = .next t ∧
      t = { s with
        offset := 0, checksum := sumBytes (h.map RxSymbol.value),
        lastIoStatus := (broken.getLast?.map RxAnswer.status).getD 0, io := .reader, hdr := t.hdr,
        result := s.cfg.errorCodes.missingStop, mode := .invalid, explen := e,
        budget := limit - BitVec.ofNat 16 z.length, sleepAnswers := s.sleepAnswers - z.length, rxAnswers := rest,
        events := s.events ++ noDataEvents z ++ rxEvents ([start] ++ symbolsAnswers h ++ broken) } ∧
      headerBytes t.hdr = h.map RxSymbol.value ++ (headerBytes s.hdr).drop h.length

/-- R89, R111: a declared length above expected_data_length is FrameTooLong, with nothing after the header read; with
expected_data_length = 255 that cannot be. -/
def Obligations.LongResponseIsFrameTooLong : Prop :=
  ∀ (s : State) (e : Byte) (limit : BitVec 16) (o : Opening) (rest : List RxAnswer),
    Idle s → o.ok → e.toNat < o.hdr.dataLen.toNat → o.retries < limit.toNat →
    o.retries ≤ s.sleepAnswers → s.rxAnswers = o.answers ++ rest →
    e ≠ 255 ∧
    exec (.readResponse e limit) s = .next { s with
      offset := 0, checksum := sumBytes (headerBytes o.hdr),
      lastIoStatus := ((symbolsAnswers o.header).getLast?.map RxAnswer.status).getD 0, io := .reader, hdr := o.hdr,
      result := s.cfg.errorCodes.frameTooLong, mode := .invalid, explen := e,
      budget := limit - BitVec.ofNat 16 o.retries, sleepAnswers := s.sleepAnswers - o.retries,
      rxAnswers := rest, events := s.events ++ o.events }

/-- R90, R107, C3: when the retry budget is used up with payload bytes missing, `read_response` fails with
EncodingError; the bytes that came are stored, the budget is 0, and the last no-data answer still slept. A no-data
answer may stand after a stuff marker too. -/
def Obligations.ExhaustedBudgetIsEncodingError : Prop :=
  ∀ (s : State) (e : Byte) (limit : BitVec 16) (o : Opening) (p : List Arrival) (z : List Retry)
    (rest : List RxAnswer),
    Idle s → o.ok → (∀ a ∈ p, a.ok) → p.length < o.hdr.dataLen.toNat → o.hdr.dataLen.toNat ≤ e.toNat →
    p.length ≤ s.cfg.capacity → (∀ r ∈ z, r.ok) → z ≠ [] →
    o.retries + arrivalRetries p + z.length = limit.toNat → limit.toNat ≤ s.sleepAnswers →
    s.rxAnswers = o.answers ++ arrivalAnswers p ++ retryAnswers z ++ rest →
    ∃ t, exec (.readResponse e limit) s = .next t ∧
      t = { s with
        buf := t.buf, offset := BitVec.ofNat 16 p.length, checksum := sumBytes (responseBytes o p),
        lastIoStatus := 0, io := .reader, hdr := o.hdr, result := s.cfg.errorCodes.encodingError, mode := .invalid,
        explen := e, budget := 0, sleepAnswers := s.sleepAnswers - limit.toNat, rxAnswers := rest,
        events := s.events ++ o.events ++ arrivalEvents p ++ retryEvents z } ∧
      PayloadStored s t (p.map Arrival.value)

/-- R90, R110: a transport error in the payload, on the first read of a symbol or on the read after a stuff marker
(V34), is MissingStop and is not retried. -/
def Obligations.PayloadErrorIsMissingStop : Prop :=
  ∀ (s : State) (e : Byte) (limit : BitVec 16) (o : Opening) (p : List Arrival) (z : List Retry)
    (broken rest : List RxAnswer),
    Idle s → o.ok → (∀ x ∈ p, x.ok) → p.length < o.hdr.dataLen.toNat → o.hdr.dataLen.toNat ≤ e.toNat →
    p.length ≤ s.cfg.capacity → (∀ r ∈ z, r.ok) → ErrorSymbol broken →
    o.retries + arrivalRetries p + z.length < limit.toNat →
    o.retries + arrivalRetries p + z.length ≤ s.sleepAnswers →
    s.rxAnswers = o.answers ++ arrivalAnswers p ++ retryAnswers z ++ broken ++ rest →
    ∃ t, exec (.readResponse e limit) s = .next t ∧
      t = { s with
        buf := t.buf, offset := BitVec.ofNat 16 p.length, checksum := sumBytes (responseBytes o p),
        lastIoStatus := (broken.getLast?.map RxAnswer.status).getD 0, io := .reader, hdr := o.hdr,
        result := s.cfg.errorCodes.missingStop,
        mode := .invalid, explen := e,
        budget := limit - BitVec.ofNat 16 (o.retries + arrivalRetries p + z.length),
        sleepAnswers := s.sleepAnswers - (o.retries + arrivalRetries p + z.length), rxAnswers := rest,
        events := s.events ++ o.events ++ arrivalEvents p ++ retryEvents z ++ rxEvents broken } ∧
      PayloadStored s t (p.map Arrival.value)

/-- R90, R117: a payload byte that would go to an address of CAPACITY raises BufferOverrun: it is read and accumulated
and not stored, and RESULT is not written. -/
def Obligations.PayloadBeyondCapacityIsOverrun : Prop :=
  ∀ (s : State) (e : Byte) (limit : BitVec 16) (o : Opening) (p : List Arrival) (last : Arrival)
    (rest : List RxAnswer),
    Idle s → s.fault = .noFault → o.ok → (∀ a ∈ p, a.ok) → last.ok → p.length < o.hdr.dataLen.toNat →
    o.hdr.dataLen.toNat ≤ e.toNat → p.length = s.cfg.capacity →
    o.retries + arrivalRetries (p ++ [last]) < limit.toNat →
    o.retries + arrivalRetries (p ++ [last]) ≤ s.sleepAnswers →
    s.rxAnswers = o.answers ++ arrivalAnswers (p ++ [last]) ++ rest →
    ∃ t, exec (.readResponse e limit) s = .next t ∧
      t.fault = .bufferOverrun ∧ t.mode = .invalid ∧ t.result = s.result ∧ t.busy = false ∧
      t.offset = BitVec.ofNat 16 p.length ∧ t.checksum = sumBytes (responseBytes o (p ++ [last])) ∧
      t.rxAnswers = rest ∧ t.events = s.events ++ o.events ++ arrivalEvents (p ++ [last]) ∧
      PayloadStored s t (p.map Arrival.value)

/-- R91, R112, R119: a frame whose bytes with its checksum byte do not sum to 0xFF is ChecksumMismatch, whatever its
state byte; the stop delimiter is not read. -/
def Obligations.WrongSumIsChecksumMismatch : Prop :=
  ∀ (s : State) (e : Byte) (limit : BitVec 16) (o : Opening) (p : List Arrival) (c : RxSymbol)
    (rest : List RxAnswer),
    Idle s → o.ok → (∀ a ∈ p, a.ok) → p.length = o.hdr.dataLen.toNat → o.hdr.dataLen.toNat ≤ e.toNat →
    o.hdr.dataLen.toNat ≤ s.cfg.capacity → c.ok → sumBytes (responseBytes o p ++ [c.value]) ≠ 0xFF →
    o.retries + arrivalRetries p < limit.toNat → o.retries + arrivalRetries p ≤ s.sleepAnswers →
    s.rxAnswers = o.answers ++ arrivalAnswers p ++ c.answers ++ rest →
    ∃ t, exec (.readResponse e limit) s = .next t ∧
      t.result = s.cfg.errorCodes.checksumMismatch ∧ t.mode = .invalid ∧ t.fault = s.fault ∧ t.busy = false ∧
      t.checksum = sumBytes (responseBytes o p ++ [c.value]) ∧ t.rxAnswers = rest ∧
      t.events = s.events ++ o.events ++ arrivalEvents p ++ rxEvents c.answers

/-- R91: one flipped bit of one payload byte of a good frame makes the sum wrong, so the frame is ChecksumMismatch. -/
def Obligations.FlippedPayloadBitIsChecksumMismatch : Prop :=
  ∀ (s : State) (e : Byte) (limit : BitVec 16) (o : Opening) (p : List Arrival) (sent : List Byte) (k bit : Nat)
    (c : RxSymbol) (rest : List RxAnswer),
    Idle s → o.ok → (∀ a ∈ p, a.ok) → p.length = o.hdr.dataLen.toNat → o.hdr.dataLen.toNat ≤ e.toNat →
    o.hdr.dataLen.toNat ≤ s.cfg.capacity → (hk : k < sent.length) → bit < 8 →
    p.map Arrival.value = sent.set k (sent[k] ^^^ (1#8 <<< bit)) →
    c.ok → c.value = checksumByte (headerBytes o.hdr ++ sent) →
    o.retries + arrivalRetries p < limit.toNat → o.retries + arrivalRetries p ≤ s.sleepAnswers →
    s.rxAnswers = o.answers ++ arrivalAnswers p ++ c.answers ++ rest →
    ∃ t, exec (.readResponse e limit) s = .next t ∧ t.result = s.cfg.errorCodes.checksumMismatch ∧
      t.mode = .invalid ∧ t.busy = false

/-- R92, R113, R119: a good frame whose state byte has any of its low seven bits set is ExecutionFailure, bit 7 taking
no part; the stop delimiter is not read; the header holds the sensor's code. -/
def Obligations.SensorErrorIsExecutionFailure : Prop :=
  ∀ (s : State) (e : Byte) (limit : BitVec 16) (o : Opening) (p : List Arrival) (c : RxSymbol)
    (rest : List RxAnswer),
    Idle s → o.ok → (∀ a ∈ p, a.ok) → p.length = o.hdr.dataLen.toNat → o.hdr.dataLen.toNat ≤ e.toNat →
    o.hdr.dataLen.toNat ≤ s.cfg.capacity → o.hdr.state &&& 0x7F ≠ 0 →
    c.ok → c.value = checksumByte (responseBytes o p) →
    o.retries + arrivalRetries p < limit.toNat → o.retries + arrivalRetries p ≤ s.sleepAnswers →
    s.rxAnswers = o.answers ++ arrivalAnswers p ++ c.answers ++ rest →
    ∃ t, exec (.readResponse e limit) s = .next t ∧
      t.result = s.cfg.errorCodes.executionFailure ∧ t.mode = .invalid ∧ t.fault = s.fault ∧ t.busy = false ∧
      t.checksum = 0xFF ∧ t.hdr = o.hdr ∧ t.rxAnswers = rest ∧
      t.events = s.events ++ o.events ++ arrivalEvents p ++ rxEvents c.answers

/-- R91, R93, R110: a checksum byte that does not come, whatever the state byte, or, in a good frame without a sensor
error, a stop delimiter that does not come or is another byte, is MissingStop without a retry. -/
def Obligations.UnfinishedFrameIsMissingStop : Prop :=
  ∀ (s : State) (e : Byte) (limit : BitVec 16) (o : Opening) (p : List Arrival) (c last rest : List RxAnswer),
    Idle s → o.ok → (∀ a ∈ p, a.ok) → p.length = o.hdr.dataLen.toNat → o.hdr.dataLen.toNat ≤ e.toNat →
    o.hdr.dataLen.toNat ≤ s.cfg.capacity →
    o.retries + arrivalRetries p < limit.toNat → o.retries + arrivalRetries p ≤ s.sleepAnswers →
    (c = [] ∧ BrokenSymbol last ∨
      (RxSymbol.mk c (checksumByte (responseBytes o p))).ok ∧ o.hdr.state &&& 0x7F = 0 ∧
        ∃ a, last = [a] ∧ (a.status.toInt ≤ 0 ∨ a.data ≠ 0x7E)) →
    s.rxAnswers = o.answers ++ arrivalAnswers p ++ c ++ last ++ rest →
    ∃ t, exec (.readResponse e limit) s = .next t ∧
      t.result = s.cfg.errorCodes.missingStop ∧ t.mode = .invalid ∧ t.fault = s.fault ∧ t.busy = false ∧
      t.rxAnswers = rest ∧ t.events = s.events ++ o.events ++ arrivalEvents p ++ rxEvents (c ++ last)

/-- R137: the lost escape as a whole operation (V33). A frame carries the bytes `sent` and their checksum byte; the
marker of one reserved payload byte is followed by a no-data answer, so its position receives the byte with bit 5
inverted, and with nothing else wrong the frame is ChecksumMismatch. -/
def Obligations.LostEscapeIsChecksumMismatch : Prop :=
  ∀ (s : State) (e : Byte) (limit : BitVec 16) (o : Opening) (before after : List Arrival) (x : Arrival) (b : Byte)
    (m z a : RxAnswer) (c : RxSymbol) (rest : List RxAnswer),
    Idle s → o.ok → (∀ y ∈ before, y.ok) → (∀ y ∈ after, y.ok) → (reservedByte b = true) →
    Delivers [m, a] (symbol b) → z.status.toInt = 0 → x = ⟨[⟨some m, z⟩], ⟨[a], b ^^^ 0x20⟩⟩ →
    before.length + 1 + after.length = o.hdr.dataLen.toNat → o.hdr.dataLen.toNat ≤ e.toNat →
    o.hdr.dataLen.toNat ≤ s.cfg.capacity → c.ok →
    c.value = checksumByte
      (headerBytes o.hdr ++ before.map Arrival.value ++ [b] ++ after.map Arrival.value) →
    o.retries + arrivalRetries (before ++ [x] ++ after) < limit.toNat →
    o.retries + arrivalRetries (before ++ [x] ++ after) ≤ s.sleepAnswers →
    s.rxAnswers = o.answers ++ arrivalAnswers (before ++ [x] ++ after) ++ c.answers ++ rest →
    ∃ t, exec (.readResponse e limit) s = .next t ∧
      t.result = s.cfg.errorCodes.checksumMismatch ∧ t.mode = .invalid ∧ t.busy = false ∧ t.rxAnswers = rest ∧
      bufByte t before.length = b ^^^ 0x20 ∧
      (t.checksum = 0xFF + 0x20 ∨ t.checksum = 0xFF - 0x20)

/-- R137: a no-data answer between the stuff marker and the byte after it in the payload loses the marker: the retry
stores the byte itself, not the byte with bit 5 inverted. -/
def Obligations.LostEscapeStoresTheRawByte : Prop :=
  ∀ (s : State) (n : Nat) (m z a : RxAnswer) (rest : List RxAnswer),
    s.pos = .start → s.offset.toNat < s.hdr.dataLen.toNat → s.offset.toNat < s.cfg.capacity → 2 ≤ s.budget.toNat →
    0 < s.sleepAnswers → Delivers [m] [0x7D] → z.status.toInt = 0 → 0 < a.status.toInt → a.data ≠ 0x7D →
    s.rxAnswers = [m, z, a] ++ rest →
    ∃ t, rxP4Loop (n + 2) s = rxP4Loop n t ∧ bufByte t s.offset.toNat = a.data ∧ t.offset = s.offset + 1 ∧
      t.checksum = s.checksum + a.data ∧ t.budget = s.budget - 1 ∧ t.rxAnswers = rest ∧
      t.events = s.events ++ [.rx m, .rx z, .sleep, .rx a]

/-- R95: `read_response` issues at most max_timeout_ms Sleep(1) events and at most 2 max_timeout_ms + 2 HDR.DATA_LEN +
12 RxByte events, and no TxByte. -/
def Obligations.ReadResponseEventBounds : Prop :=
  ∀ (s t : State) (e : Byte) (limit : BitVec 16), exec (.readResponse e limit) s = .next t →
    ∃ new, t.events = s.events ++ new ∧ sleepsIn new ≤ limit.toNat ∧
      (rxAnswersOf new).length ≤ 2 * limit.toNat + 2 * t.hdr.dataLen.toNat + 12 ∧ txStatusesOf new = []

/-- R94, R97, R50: however the transport answers, a `read_response` that ends is RECEIVED or INVALID. RECEIVED: RESULT
0, the registers as R94 says, and the outputs are what arrived: of the answers its RxByte events got, after the
no-data answers of Phase 1, the first is the start delimiter and the last the stop delimiter, and the symbols between
them are, un-stuffed, the four bytes of HDR, BUF[0 .. OFFSET-1] and their checksum byte. INVALID: one of the seven
codes in RESULT, or a fault raised. -/
def Obligations.EndedResponseIsValidOrInvalid : Prop :=
  ∀ (s t : State) (e : Byte) (limit : BitVec 16), exec (.readResponse e limit) s = .next t → t.busy = false →
    (t.mode = .received ∧ ReceivedInv t ∧ t.explen = e ∧ t.fault = s.fault ∧
      ∃ new, t.events = s.events ++ new ∧ t.budget.toNat + sleepsIn new = limit.toNat ∧
        ∃ z start symbols stop, rxAnswersOf new = z ++ [start] ++ symbols ++ [stop] ∧ AllNoData z ∧
          Delivers [start] [0x7E] ∧ Delivers [stop] [0x7E] ∧
          unstuffedBytes symbols = headerBytes t.hdr ++ bufPrefix t t.offset.toNat ++
            [checksumByte (headerBytes t.hdr ++ bufPrefix t t.offset.toNat)]) ∨
    (t.mode = .invalid ∧
      ((∃ k, t.result = errorCode s.cfg.errorCodes k ∧ t.fault = s.fault) ∨
        (t.result = s.result ∧ t.fault = if s.fault = .noFault then .bufferOverrun else s.fault)))

/-- R86: whatever `read_response` does, ended or waiting, the host's moves, the data port, the transmit side and the
parameters are unchanged, and BUF reads as before at every address from OFFSET upward. -/
def Obligations.ReadResponseFrame : Prop :=
  ∀ (s t : State) (e : Byte) (limit : BitVec 16), exec (.readResponse e limit) s = .next t →
    t.host = s.host ∧ t.dataPort = s.dataPort ∧ t.txAnswers = s.txAnswers ∧ t.resetInput = s.resetInput ∧
    t.resets = s.resets ∧ t.cfg = s.cfg ∧ t.io = .reader ∧ t.explen = e ∧
    ∀ a, t.offset.toNat ≤ a → bufByte t a = bufByte s a

/-- R98, C4: the round trip. A request of address A, command C and payload P is built and sent; its wire output, with
one byte 0x00 (the state byte) put between the symbols of C and of the length, is delivered without gaps;
`read_response` gives A, C, 0 and the length in HDR and P in BUF. P is any payload that fits, so any of at most
MAX_PAYLOAD bytes; that the stream has no no-data answer is log entry 18. -/
def Obligations.RequestRoundTrip : Prop :=
  ∀ (s : State) (address command length e : Byte) (limit : BitVec 16) (payload : List Byte) (acc : List Status)
    (answers rest : List RxAnswer),
    Idle s → s.cfg.wf = true → payload.length = length.toNat → payload.length + 3 ≤ s.cfg.capacity →
    length.toNat ≤ e.toNat → 1 ≤ limit.toNat → s.dataPort = payload →
    AllAccepted acc → acc.length = (frameOf ([address, command, length] ++ payload)).length → s.txAnswers = acc →
    s.rxAnswers = answers ++ rest →
    ∃ t wire,
      execAll [.beginStream command address length, .addBytes (length.setWidth 16), .writeRequest] s = .next t ∧
      t.result = 0 ∧ t.events = s.events ++ txEvents wire acc ∧
      wireOutput (txEvents wire acc) = wire ∧
      (Delivers answers ([0x7E] ++ symbol address ++ symbol command ++ [0x00] ++
          wire.drop (1 + (symbol address ++ symbol command).length)) →
        ∃ u, exec (.readResponse e limit) t = .next u ∧ u.result = 0 ∧ u.mode = .received ∧
          u.hdr = ⟨address, command, 0x00, length⟩ ∧ u.offset.toNat = payload.length ∧ u.rxAnswers = rest ∧
          ∀ k (h : k < payload.length), bufByte u k = payload[k])

/-! ### The whole machine -/

/-- The invariant holds right after reset. -/
def Obligations.ResetSatisfiesInv : Prop := Inv State.reset

/-- Every step keeps the invariant, whatever the host presents and the transport answers. -/
def Obligations.EveryStepKeepsInv : Prop := ∀ s t : State, Inv s → step s = .next t → Inv t

/-- Every step keeps BUF in canonical form and within its address space (R30), from any state with such a BUF. -/
def Obligations.EveryStepKeepsBufCanonical : Prop := ∀ s t : State, BufInv s → step s = .next t → BufInv t

/-- R6: every register whose width is a parameter keeps to it: a step from a state that meets the invariant, with
answers of STATUS_W bits on the ports, leaves OFFSET, BUDGET, EXPLEN, LAST_IO_STATUS, RESULT and the operand of a
waiting `add_bytes` within their widths. -/
def Obligations.EveryStepKeepsWidths : Prop :=
  ∀ s t : State, Inv s → WidthsHold s → StatusPortsFit s → step s = .next t → WidthsHold t ∧ StatusPortsFit t

/-- R30, R74: in a state that meets the invariant a step always has a next state, unless the host's next move is a
buffer-port write at an address of CAPACITY or more. -/
def Obligations.InvStepNeverStops : Prop :=
  ∀ s : State, Inv s → (∀ a v rest, s.host = .writeBuf a v :: rest → a.toNat < s.cfg.capacity) →
    ∃ t, step s = .next t

/-- R9, R34, R35, R40: the event list only grows, and a step consumes exactly the transport answers and sleep answers
its new events show, in order: no read ahead, nothing buffered. -/
def Obligations.EventsAccountForEveryAnswer : Prop :=
  ∀ s t : State, step s = .next t →
    ∃ new, t.events = s.events ++ new ∧ s.txAnswers = txStatusesOf new ++ t.txAnswers ∧
      s.rxAnswers = rxAnswersOf new ++ t.rxAnswers ∧ s.sleepAnswers = sleepsIn new + t.sleepAnswers

/-- R6: no step changes a parameter. -/
def Obligations.ParametersNeverChange : Prop := ∀ s t : State, step s = .next t → t.cfg = s.cfg

/-- R25, R40, U7, U19: waiting changes nothing. An operation that waited for an answer or a data byte goes on, once more
of them are there, to exactly the outcome it has when they are there from the start. That a waiting operation resumes
so is the model's choice of granularity (log entries 1 to 3). -/
def Obligations.WaitingDoesNotChangeTheOutcome : Prop :=
  ∀ (i : Instr) (s t : State) (data : List Byte) (tx : List Status) (rx : List RxAnswer) (sleeps : Nat),
    exec i s = .next t → t.busy = true → t.resetInput = false →
    step (moreInput t data tx rx sleeps) = exec i (moreInput s data tx rx sleeps)
end

