-- ==== Sys2Proof/Laws/Encoding.lean ====
section
/-! SUPPORT. The fields of a command word as numbers, and the parts of an encoded word. -/

namespace Sys2Proof

/-- A concatenation as a number. -/
theorem toNat_concat {m n : Nat} (x : BitVec m) (y : BitVec n) : (x ++ y).toNat = x.toNat * 2 ^ n + y.toNat := by
  rw [BitVec.toNat_append, ← Nat.shiftLeft_add_eq_or_of_lt y.isLt, Nat.shiftLeft_eq]

theorem encode_toNat (i : Instr) : (encode i).toNat = (opCode i).toNat * 2 ^ 36 + (operandField i).toNat := by
  have h : (encode i).toNat = (opCode i ++ 0#4 ++ operandField i).toNat := rfl
  rw [h, toNat_concat, toNat_concat]
  simp
  omega

theorem opField_toNat (cw : CommandWord) : (opField cw).toNat = cw.toNat / 2 ^ 36 := by
  have := cw.isLt
  simp [opField, Nat.shiftRight_eq_div_pow]
  omega

theorem zeroFieldOf_toNat (cw : CommandWord) : (zeroFieldOf cw).toNat = cw.toNat / 2 ^ 32 % 16 := by
  simp [zeroFieldOf, Nat.shiftRight_eq_div_pow]

theorem argField_toNat (cw : CommandWord) : (argField cw).toNat = cw.toNat % 2 ^ 32 := by
  simp [argField]

@[simp] theorem opField_encode (i : Instr) : opField (encode i) = opCode i := by
  apply BitVec.eq_of_toNat_eq
  rw [opField_toNat, encode_toNat]
  have := (operandField i).isLt
  omega

@[simp] theorem zeroFieldOf_encode (i : Instr) : zeroFieldOf (encode i) = 0 := by
  apply BitVec.eq_of_toNat_eq
  rw [zeroFieldOf_toNat, encode_toNat]
  have := (operandField i).isLt
  simp
  omega

@[simp] theorem argField_encode (i : Instr) : argField (encode i) = operandField i := by
  apply BitVec.eq_of_toNat_eq
  rw [argField_toNat, encode_toNat]
  have := (operandField i).isLt
  omega

theorem operandField_beginStream (c a l : Byte) :
    (operandField (.beginStream c a l)).toNat = l.toNat * 2 ^ 16 + a.toNat * 2 ^ 8 + c.toNat := by
  have h : (operandField (.beginStream c a l)).toNat = (0#8 ++ l ++ a ++ c).toNat := rfl
  rw [h, toNat_concat, toNat_concat, toNat_concat]
  simp
  omega

theorem operandField_readResponse (e : Byte) (n : BitVec 16) :
    (operandField (.readResponse e n)).toNat = n.toNat * 2 ^ 8 + e.toNat := by
  have h : (operandField (.readResponse e n)).toNat = (0#8 ++ n ++ e).toNat := rfl
  rw [h, toNat_concat, toNat_concat]
  simp

/-- The operand field of an operation leaves the unused bits 0. -/
theorem operandField_lt (i : Instr) : (operandField i).toNat < 2 ^ usedBits (opCode i) := by
  cases i with
  | beginStream c a l => simp [opCode, usedBits, operandField_beginStream]; omega
  | readResponse e n => simp [opCode, usedBits, operandField_readResponse]; omega
  | writeRequest => simp [opCode, usedBits, operandField]
  | _ => simp [opCode, usedBits, operandField]; omega

/-- What a decoded word satisfies. -/
theorem decode_ok {cw : CommandWord} {i : Instr} (h : decode cw = .ok i) :
    operation (opField cw) (argField cw) = some i ∧ zeroFieldOf cw = 0 ∧
      (argField cw).toNat < 2 ^ usedBits (opField cw) := by
  unfold decode at h
  split at h
  · cases h
  · split at h
    · cases h
    · split at h
      · cases h
      · cases h
        exact ⟨‹_›, by simp_all, by omega⟩

/-- A word that the decoder refuses is refused under all parameters. -/
theorem decodeFor_of_error {c : Config} {cw : CommandWord} {e : Illegal} (h : decode cw = .error e) :
    decodeFor c cw = .error e := by
  simp only [decodeFor, h]

/-- A word whose operation is well formed under the parameters is decoded to it. -/
theorem decodeFor_of_wf {c : Config} {cw : CommandWord} {i : Instr} (h : decode cw = .ok i) (hw : i.wf c = true) :
    decodeFor c cw = .ok i := by
  simp only [decodeFor, h, if_pos hw]

/-- A word whose operation is not well formed under the parameters is refused. -/
theorem decodeFor_of_not_wf {c : Config} {cw : CommandWord} {i : Instr} (h : decode cw = .ok i) (hw : i.wf c = false) :
    decodeFor c cw = .error (.unusedBits (opField cw)) := by
  simp only [decodeFor, h, hw, Bool.false_eq_true, if_false]

/-- What a word decoded under the parameters satisfies. -/
theorem decodeFor_ok {c : Config} {cw : CommandWord} {i : Instr} (h : decodeFor c cw = .ok i) :
    decode cw = .ok i ∧ i.wf c = true := by
  unfold decodeFor at h
  split at h
  · cases h
  · split at h
    · cases h
      exact ⟨‹_›, ‹_›⟩
    · cases h

/-- At the reference widths every operation is well formed. -/
theorem wf_of_reference_widths {c : Config} (i : Instr) (h1 : c.lenW = 16) (h2 : c.expLenW = 8)
    (h3 : c.timeoutW = 16) : i.wf c = true := by
  cases i <;> simp only [Instr.wf, h1, h2, h3, Bool.and_eq_true, decide_eq_true_eq]
  · next length => exact length.isLt
  · next e limit => exact ⟨e.isLt, limit.isLt⟩

/-- The high bits of a word. -/
theorem toNat_and_high (x : CommandWord) (k : Nat) :
    (x &&& (BitVec.allOnes 40 <<< k)).toNat = x.toNat / 2 ^ k * 2 ^ k := by
  rw [← Nat.shiftRight_eq_div_pow, ← Nat.shiftLeft_eq]
  apply Nat.eq_of_testBit_eq
  intro j
  rw [BitVec.testBit_toNat]
  simp only [BitVec.getLsbD_and, BitVec.getLsbD_shiftLeft, BitVec.getLsbD_allOnes, Nat.testBit_shiftLeft,
    Nat.testBit_shiftRight]
  by_cases h1 : j < k
  · simp [h1]
  · rw [show k + (j - k) = j by omega, BitVec.testBit_toNat]
    by_cases h2 : j < 40
    · simp [h2, h1, show j - k < 40 by omega, show k ≤ j by omega]
    · simp [BitVec.getLsbD_of_ge x j (by omega)]

/-- A row of the opcode table: its mask covers the bits the operation does not use, its pattern is the op code. -/
theorem rowOf_shape (i : Instr) :
    (rowOf i).mask = BitVec.allOnes 40 <<< usedBits (opCode i) ∧
      (rowOf i).pattern.toNat = (opCode i).toNat * 2 ^ 36 := by
  cases i <;> refine ⟨?_, ?_⟩ <;> simp only [rowOf, opCode] <;> decide

/-- When a word matches the row of an operation. -/
theorem rowOf_matches (i : Instr) (cw : CommandWord) :
    (rowOf i).matches cw =
      decide (cw.toNat / 2 ^ usedBits (opCode i) * 2 ^ usedBits (opCode i) = (opCode i).toNat * 2 ^ 36) := by
  obtain ⟨h1, h2⟩ := rowOf_shape i
  rw [← h2, ← toNat_and_high, ← h1, Bool.eq_iff_iff]
  simp [OpRow.matches, ← BitVec.toNat_inj]

end Sys2Proof
end

