-- ==== Sys2Proof/Laws/State.lean ====
section
/-! SUPPORT. One lemma per field for each named update of State, true by rfl. -/

namespace Sys2Proof.Machine

/-! ### setByte -/

@[simp] theorem setByte_buf (a : Nat) (v : Byte) (s : State) : (setByte a v s).buf = Memory.put s.buf a v := rfl
@[simp] theorem setByte_offset (a : Nat) (v : Byte) (s : State) : (setByte a v s).offset = s.offset := rfl
@[simp] theorem setByte_checksum (a : Nat) (v : Byte) (s : State) : (setByte a v s).checksum = s.checksum := rfl
@[simp] theorem setByte_lastIoStatus (a : Nat) (v : Byte) (s : State) : (setByte a v s).lastIoStatus = s.lastIoStatus := rfl
@[simp] theorem setByte_io (a : Nat) (v : Byte) (s : State) : (setByte a v s).io = s.io := rfl
@[simp] theorem setByte_hdr (a : Nat) (v : Byte) (s : State) : (setByte a v s).hdr = s.hdr := rfl
@[simp] theorem setByte_result (a : Nat) (v : Byte) (s : State) : (setByte a v s).result = s.result := rfl
@[simp] theorem setByte_mode (a : Nat) (v : Byte) (s : State) : (setByte a v s).mode = s.mode := rfl
@[simp] theorem setByte_phase (a : Nat) (v : Byte) (s : State) : (setByte a v s).phase = s.phase := rfl
@[simp] theorem setByte_idx (a : Nat) (v : Byte) (s : State) : (setByte a v s).idx = s.idx := rfl
@[simp] theorem setByte_budget (a : Nat) (v : Byte) (s : State) : (setByte a v s).budget = s.budget := rfl
@[simp] theorem setByte_explen (a : Nat) (v : Byte) (s : State) : (setByte a v s).explen = s.explen := rfl
@[simp] theorem setByte_fault (a : Nat) (v : Byte) (s : State) : (setByte a v s).fault = s.fault := rfl
@[simp] theorem setByte_busy (a : Nat) (v : Byte) (s : State) : (setByte a v s).busy = s.busy := rfl
@[simp] theorem setByte_host (a : Nat) (v : Byte) (s : State) : (setByte a v s).host = s.host := rfl
@[simp] theorem setByte_resetInput (a : Nat) (v : Byte) (s : State) : (setByte a v s).resetInput = s.resetInput := rfl
@[simp] theorem setByte_dataPort (a : Nat) (v : Byte) (s : State) : (setByte a v s).dataPort = s.dataPort := rfl
@[simp] theorem setByte_txAnswers (a : Nat) (v : Byte) (s : State) : (setByte a v s).txAnswers = s.txAnswers := rfl
@[simp] theorem setByte_rxAnswers (a : Nat) (v : Byte) (s : State) : (setByte a v s).rxAnswers = s.rxAnswers := rfl
@[simp] theorem setByte_sleepAnswers (a : Nat) (v : Byte) (s : State) : (setByte a v s).sleepAnswers = s.sleepAnswers := rfl
@[simp] theorem setByte_events (a : Nat) (v : Byte) (s : State) : (setByte a v s).events = s.events := rfl
@[simp] theorem setByte_pos (a : Nat) (v : Byte) (s : State) : (setByte a v s).pos = s.pos := rfl
@[simp] theorem setByte_copyLength (a : Nat) (v : Byte) (s : State) : (setByte a v s).copyLength = s.copyLength := rfl
@[simp] theorem setByte_resets (a : Nat) (v : Byte) (s : State) : (setByte a v s).resets = s.resets := rfl
@[simp] theorem setByte_cfg (a : Nat) (v : Byte) (s : State) : (setByte a v s).cfg = s.cfg := rfl

/-! ### accumulate -/

@[simp] theorem accumulate_buf (b : Byte) (s : State) : (accumulate b s).buf = s.buf := rfl
@[simp] theorem accumulate_offset (b : Byte) (s : State) : (accumulate b s).offset = s.offset := rfl
@[simp] theorem accumulate_checksum (b : Byte) (s : State) : (accumulate b s).checksum = s.checksum + b := rfl
@[simp] theorem accumulate_lastIoStatus (b : Byte) (s : State) : (accumulate b s).lastIoStatus = s.lastIoStatus := rfl
@[simp] theorem accumulate_io (b : Byte) (s : State) : (accumulate b s).io = s.io := rfl
@[simp] theorem accumulate_hdr (b : Byte) (s : State) : (accumulate b s).hdr = s.hdr := rfl
@[simp] theorem accumulate_result (b : Byte) (s : State) : (accumulate b s).result = s.result := rfl
@[simp] theorem accumulate_mode (b : Byte) (s : State) : (accumulate b s).mode = s.mode := rfl
@[simp] theorem accumulate_phase (b : Byte) (s : State) : (accumulate b s).phase = s.phase := rfl
@[simp] theorem accumulate_idx (b : Byte) (s : State) : (accumulate b s).idx = s.idx := rfl
@[simp] theorem accumulate_budget (b : Byte) (s : State) : (accumulate b s).budget = s.budget := rfl
@[simp] theorem accumulate_explen (b : Byte) (s : State) : (accumulate b s).explen = s.explen := rfl
@[simp] theorem accumulate_fault (b : Byte) (s : State) : (accumulate b s).fault = s.fault := rfl
@[simp] theorem accumulate_busy (b : Byte) (s : State) : (accumulate b s).busy = s.busy := rfl
@[simp] theorem accumulate_host (b : Byte) (s : State) : (accumulate b s).host = s.host := rfl
@[simp] theorem accumulate_resetInput (b : Byte) (s : State) : (accumulate b s).resetInput = s.resetInput := rfl
@[simp] theorem accumulate_dataPort (b : Byte) (s : State) : (accumulate b s).dataPort = s.dataPort := rfl
@[simp] theorem accumulate_txAnswers (b : Byte) (s : State) : (accumulate b s).txAnswers = s.txAnswers := rfl
@[simp] theorem accumulate_rxAnswers (b : Byte) (s : State) : (accumulate b s).rxAnswers = s.rxAnswers := rfl
@[simp] theorem accumulate_sleepAnswers (b : Byte) (s : State) : (accumulate b s).sleepAnswers = s.sleepAnswers := rfl
@[simp] theorem accumulate_events (b : Byte) (s : State) : (accumulate b s).events = s.events := rfl
@[simp] theorem accumulate_pos (b : Byte) (s : State) : (accumulate b s).pos = s.pos := rfl
@[simp] theorem accumulate_copyLength (b : Byte) (s : State) : (accumulate b s).copyLength = s.copyLength := rfl
@[simp] theorem accumulate_resets (b : Byte) (s : State) : (accumulate b s).resets = s.resets := rfl
@[simp] theorem accumulate_cfg (b : Byte) (s : State) : (accumulate b s).cfg = s.cfg := rfl

/-! ### spendBudget -/

@[simp] theorem spendBudget_buf (s : State) : (spendBudget s).buf = s.buf := rfl
@[simp] theorem spendBudget_offset (s : State) : (spendBudget s).offset = s.offset := rfl
@[simp] theorem spendBudget_checksum (s : State) : (spendBudget s).checksum = s.checksum := rfl
@[simp] theorem spendBudget_lastIoStatus (s : State) : (spendBudget s).lastIoStatus = s.lastIoStatus := rfl
@[simp] theorem spendBudget_io (s : State) : (spendBudget s).io = s.io := rfl
@[simp] theorem spendBudget_hdr (s : State) : (spendBudget s).hdr = s.hdr := rfl
@[simp] theorem spendBudget_result (s : State) : (spendBudget s).result = s.result := rfl
@[simp] theorem spendBudget_mode (s : State) : (spendBudget s).mode = s.mode := rfl
@[simp] theorem spendBudget_phase (s : State) : (spendBudget s).phase = s.phase := rfl
@[simp] theorem spendBudget_idx (s : State) : (spendBudget s).idx = s.idx := rfl
@[simp] theorem spendBudget_budget (s : State) : (spendBudget s).budget = s.budget - 1 := rfl
@[simp] theorem spendBudget_explen (s : State) : (spendBudget s).explen = s.explen := rfl
@[simp] theorem spendBudget_fault (s : State) : (spendBudget s).fault = s.fault := rfl
@[simp] theorem spendBudget_busy (s : State) : (spendBudget s).busy = s.busy := rfl
@[simp] theorem spendBudget_host (s : State) : (spendBudget s).host = s.host := rfl
@[simp] theorem spendBudget_resetInput (s : State) : (spendBudget s).resetInput = s.resetInput := rfl
@[simp] theorem spendBudget_dataPort (s : State) : (spendBudget s).dataPort = s.dataPort := rfl
@[simp] theorem spendBudget_txAnswers (s : State) : (spendBudget s).txAnswers = s.txAnswers := rfl
@[simp] theorem spendBudget_rxAnswers (s : State) : (spendBudget s).rxAnswers = s.rxAnswers := rfl
@[simp] theorem spendBudget_sleepAnswers (s : State) : (spendBudget s).sleepAnswers = s.sleepAnswers := rfl
@[simp] theorem spendBudget_events (s : State) : (spendBudget s).events = s.events := rfl
@[simp] theorem spendBudget_pos (s : State) : (spendBudget s).pos = s.pos := rfl
@[simp] theorem spendBudget_copyLength (s : State) : (spendBudget s).copyLength = s.copyLength := rfl
@[simp] theorem spendBudget_resets (s : State) : (spendBudget s).resets = s.resets := rfl
@[simp] theorem spendBudget_cfg (s : State) : (spendBudget s).cfg = s.cfg := rfl

/-! ### accept -/

@[simp] theorem accept_buf (p : Phase) (s : State) : (accept p s).buf = s.buf := rfl
@[simp] theorem accept_offset (p : Phase) (s : State) : (accept p s).offset = s.offset := rfl
@[simp] theorem accept_checksum (p : Phase) (s : State) : (accept p s).checksum = s.checksum := rfl
@[simp] theorem accept_lastIoStatus (p : Phase) (s : State) : (accept p s).lastIoStatus = s.lastIoStatus := rfl
@[simp] theorem accept_io (p : Phase) (s : State) : (accept p s).io = s.io := rfl
@[simp] theorem accept_hdr (p : Phase) (s : State) : (accept p s).hdr = s.hdr := rfl
@[simp] theorem accept_result (p : Phase) (s : State) : (accept p s).result = s.result := rfl
@[simp] theorem accept_mode (p : Phase) (s : State) : (accept p s).mode = s.mode := rfl
@[simp] theorem accept_phase (p : Phase) (s : State) : (accept p s).phase = p := rfl
@[simp] theorem accept_idx (p : Phase) (s : State) : (accept p s).idx = 0 := rfl
@[simp] theorem accept_budget (p : Phase) (s : State) : (accept p s).budget = s.budget := rfl
@[simp] theorem accept_explen (p : Phase) (s : State) : (accept p s).explen = s.explen := rfl
@[simp] theorem accept_fault (p : Phase) (s : State) : (accept p s).fault = s.fault := rfl
@[simp] theorem accept_busy (p : Phase) (s : State) : (accept p s).busy = true := rfl
@[simp] theorem accept_host (p : Phase) (s : State) : (accept p s).host = s.host := rfl
@[simp] theorem accept_resetInput (p : Phase) (s : State) : (accept p s).resetInput = s.resetInput := rfl
@[simp] theorem accept_dataPort (p : Phase) (s : State) : (accept p s).dataPort = s.dataPort := rfl
@[simp] theorem accept_txAnswers (p : Phase) (s : State) : (accept p s).txAnswers = s.txAnswers := rfl
@[simp] theorem accept_rxAnswers (p : Phase) (s : State) : (accept p s).rxAnswers = s.rxAnswers := rfl
@[simp] theorem accept_sleepAnswers (p : Phase) (s : State) : (accept p s).sleepAnswers = s.sleepAnswers := rfl
@[simp] theorem accept_events (p : Phase) (s : State) : (accept p s).events = s.events := rfl
@[simp] theorem accept_pos (p : Phase) (s : State) : (accept p s).pos = .start := rfl
@[simp] theorem accept_copyLength (p : Phase) (s : State) : (accept p s).copyLength = s.copyLength := rfl
@[simp] theorem accept_resets (p : Phase) (s : State) : (accept p s).resets = s.resets := rfl
@[simp] theorem accept_cfg (p : Phase) (s : State) : (accept p s).cfg = s.cfg := rfl

/-! ### toPhase -/

@[simp] theorem toPhase_buf (p : Phase) (s : State) : (toPhase p s).buf = s.buf := rfl
@[simp] theorem toPhase_offset (p : Phase) (s : State) : (toPhase p s).offset = s.offset := rfl
@[simp] theorem toPhase_checksum (p : Phase) (s : State) : (toPhase p s).checksum = s.checksum := rfl
@[simp] theorem toPhase_lastIoStatus (p : Phase) (s : State) : (toPhase p s).lastIoStatus = s.lastIoStatus := rfl
@[simp] theorem toPhase_io (p : Phase) (s : State) : (toPhase p s).io = s.io := rfl
@[simp] theorem toPhase_hdr (p : Phase) (s : State) : (toPhase p s).hdr = s.hdr := rfl
@[simp] theorem toPhase_result (p : Phase) (s : State) : (toPhase p s).result = s.result := rfl
@[simp] theorem toPhase_mode (p : Phase) (s : State) : (toPhase p s).mode = s.mode := rfl
@[simp] theorem toPhase_phase (p : Phase) (s : State) : (toPhase p s).phase = p := rfl
@[simp] theorem toPhase_idx (p : Phase) (s : State) : (toPhase p s).idx = 0 := rfl
@[simp] theorem toPhase_budget (p : Phase) (s : State) : (toPhase p s).budget = s.budget := rfl
@[simp] theorem toPhase_explen (p : Phase) (s : State) : (toPhase p s).explen = s.explen := rfl
@[simp] theorem toPhase_fault (p : Phase) (s : State) : (toPhase p s).fault = s.fault := rfl
@[simp] theorem toPhase_busy (p : Phase) (s : State) : (toPhase p s).busy = s.busy := rfl
@[simp] theorem toPhase_host (p : Phase) (s : State) : (toPhase p s).host = s.host := rfl
@[simp] theorem toPhase_resetInput (p : Phase) (s : State) : (toPhase p s).resetInput = s.resetInput := rfl
@[simp] theorem toPhase_dataPort (p : Phase) (s : State) : (toPhase p s).dataPort = s.dataPort := rfl
@[simp] theorem toPhase_txAnswers (p : Phase) (s : State) : (toPhase p s).txAnswers = s.txAnswers := rfl
@[simp] theorem toPhase_rxAnswers (p : Phase) (s : State) : (toPhase p s).rxAnswers = s.rxAnswers := rfl
@[simp] theorem toPhase_sleepAnswers (p : Phase) (s : State) : (toPhase p s).sleepAnswers = s.sleepAnswers := rfl
@[simp] theorem toPhase_events (p : Phase) (s : State) : (toPhase p s).events = s.events := rfl
@[simp] theorem toPhase_pos (p : Phase) (s : State) : (toPhase p s).pos = s.pos := rfl
@[simp] theorem toPhase_copyLength (p : Phase) (s : State) : (toPhase p s).copyLength = s.copyLength := rfl
@[simp] theorem toPhase_resets (p : Phase) (s : State) : (toPhase p s).resets = s.resets := rfl
@[simp] theorem toPhase_cfg (p : Phase) (s : State) : (toPhase p s).cfg = s.cfg := rfl

/-! ### endOperation -/

@[simp] theorem endOperation_buf (s : State) : (endOperation s).buf = s.buf := rfl
@[simp] theorem endOperation_offset (s : State) : (endOperation s).offset = s.offset := rfl
@[simp] theorem endOperation_checksum (s : State) : (endOperation s).checksum = s.checksum := rfl
@[simp] theorem endOperation_lastIoStatus (s : State) : (endOperation s).lastIoStatus = s.lastIoStatus := rfl
@[simp] theorem endOperation_io (s : State) : (endOperation s).io = s.io := rfl
@[simp] theorem endOperation_hdr (s : State) : (endOperation s).hdr = s.hdr := rfl
@[simp] theorem endOperation_result (s : State) : (endOperation s).result = s.result := rfl
@[simp] theorem endOperation_mode (s : State) : (endOperation s).mode = s.mode := rfl
@[simp] theorem endOperation_phase (s : State) : (endOperation s).phase = .idle := rfl
@[simp] theorem endOperation_idx (s : State) : (endOperation s).idx = 0 := rfl
@[simp] theorem endOperation_budget (s : State) : (endOperation s).budget = s.budget := rfl
@[simp] theorem endOperation_explen (s : State) : (endOperation s).explen = s.explen := rfl
@[simp] theorem endOperation_fault (s : State) : (endOperation s).fault = s.fault := rfl
@[simp] theorem endOperation_busy (s : State) : (endOperation s).busy = false := rfl
@[simp] theorem endOperation_host (s : State) : (endOperation s).host = s.host := rfl
@[simp] theorem endOperation_resetInput (s : State) : (endOperation s).resetInput = s.resetInput := rfl
@[simp] theorem endOperation_dataPort (s : State) : (endOperation s).dataPort = s.dataPort := rfl
@[simp] theorem endOperation_txAnswers (s : State) : (endOperation s).txAnswers = s.txAnswers := rfl
@[simp] theorem endOperation_rxAnswers (s : State) : (endOperation s).rxAnswers = s.rxAnswers := rfl
@[simp] theorem endOperation_sleepAnswers (s : State) : (endOperation s).sleepAnswers = s.sleepAnswers := rfl
@[simp] theorem endOperation_events (s : State) : (endOperation s).events = s.events := rfl
@[simp] theorem endOperation_pos (s : State) : (endOperation s).pos = .start := rfl
@[simp] theorem endOperation_copyLength (s : State) : (endOperation s).copyLength = 0 := rfl
@[simp] theorem endOperation_resets (s : State) : (endOperation s).resets = s.resets := rfl
@[simp] theorem endOperation_cfg (s : State) : (endOperation s).cfg = s.cfg := rfl

/-! ### returnSuccess -/

@[simp] theorem returnSuccess_buf (m : Mode) (s : State) : (returnSuccess m s).buf = s.buf := rfl
@[simp] theorem returnSuccess_offset (m : Mode) (s : State) : (returnSuccess m s).offset = s.offset := rfl
@[simp] theorem returnSuccess_checksum (m : Mode) (s : State) : (returnSuccess m s).checksum = s.checksum := rfl
@[simp] theorem returnSuccess_lastIoStatus (m : Mode) (s : State) : (returnSuccess m s).lastIoStatus = s.lastIoStatus := rfl
@[simp] theorem returnSuccess_io (m : Mode) (s : State) : (returnSuccess m s).io = s.io := rfl
@[simp] theorem returnSuccess_hdr (m : Mode) (s : State) : (returnSuccess m s).hdr = s.hdr := rfl
@[simp] theorem returnSuccess_result (m : Mode) (s : State) : (returnSuccess m s).result = 0 := rfl
@[simp] theorem returnSuccess_mode (m : Mode) (s : State) : (returnSuccess m s).mode = m := rfl
@[simp] theorem returnSuccess_phase (m : Mode) (s : State) : (returnSuccess m s).phase = .idle := rfl
@[simp] theorem returnSuccess_idx (m : Mode) (s : State) : (returnSuccess m s).idx = 0 := rfl
@[simp] theorem returnSuccess_budget (m : Mode) (s : State) : (returnSuccess m s).budget = s.budget := rfl
@[simp] theorem returnSuccess_explen (m : Mode) (s : State) : (returnSuccess m s).explen = s.explen := rfl
@[simp] theorem returnSuccess_fault (m : Mode) (s : State) : (returnSuccess m s).fault = s.fault := rfl
@[simp] theorem returnSuccess_busy (m : Mode) (s : State) : (returnSuccess m s).busy = false := rfl
@[simp] theorem returnSuccess_host (m : Mode) (s : State) : (returnSuccess m s).host = s.host := rfl
@[simp] theorem returnSuccess_resetInput (m : Mode) (s : State) : (returnSuccess m s).resetInput = s.resetInput := rfl
@[simp] theorem returnSuccess_dataPort (m : Mode) (s : State) : (returnSuccess m s).dataPort = s.dataPort := rfl
@[simp] theorem returnSuccess_txAnswers (m : Mode) (s : State) : (returnSuccess m s).txAnswers = s.txAnswers := rfl
@[simp] theorem returnSuccess_rxAnswers (m : Mode) (s : State) : (returnSuccess m s).rxAnswers = s.rxAnswers := rfl
@[simp] theorem returnSuccess_sleepAnswers (m : Mode) (s : State) : (returnSuccess m s).sleepAnswers = s.sleepAnswers := rfl
@[simp] theorem returnSuccess_events (m : Mode) (s : State) : (returnSuccess m s).events = s.events := rfl
@[simp] theorem returnSuccess_pos (m : Mode) (s : State) : (returnSuccess m s).pos = .start := rfl
@[simp] theorem returnSuccess_copyLength (m : Mode) (s : State) : (returnSuccess m s).copyLength = 0 := rfl
@[simp] theorem returnSuccess_resets (m : Mode) (s : State) : (returnSuccess m s).resets = s.resets := rfl
@[simp] theorem returnSuccess_cfg (m : Mode) (s : State) : (returnSuccess m s).cfg = s.cfg := rfl

/-! ### fail -/

@[simp] theorem fail_buf (e : ErrorKind) (s : State) : (fail e s).buf = s.buf := rfl
@[simp] theorem fail_offset (e : ErrorKind) (s : State) : (fail e s).offset = s.offset := rfl
@[simp] theorem fail_checksum (e : ErrorKind) (s : State) : (fail e s).checksum = s.checksum := rfl
@[simp] theorem fail_lastIoStatus (e : ErrorKind) (s : State) : (fail e s).lastIoStatus = s.lastIoStatus := rfl
@[simp] theorem fail_io (e : ErrorKind) (s : State) : (fail e s).io = s.io := rfl
@[simp] theorem fail_hdr (e : ErrorKind) (s : State) : (fail e s).hdr = s.hdr := rfl
@[simp] theorem fail_result (e : ErrorKind) (s : State) : (fail e s).result = errorCode s.cfg.errorCodes e := rfl
@[simp] theorem fail_mode (e : ErrorKind) (s : State) : (fail e s).mode = .invalid := rfl
@[simp] theorem fail_phase (e : ErrorKind) (s : State) : (fail e s).phase = .idle := rfl
@[simp] theorem fail_idx (e : ErrorKind) (s : State) : (fail e s).idx = 0 := rfl
@[simp] theorem fail_budget (e : ErrorKind) (s : State) : (fail e s).budget = s.budget := rfl
@[simp] theorem fail_explen (e : ErrorKind) (s : State) : (fail e s).explen = s.explen := rfl
@[simp] theorem fail_fault (e : ErrorKind) (s : State) : (fail e s).fault = s.fault := rfl
@[simp] theorem fail_busy (e : ErrorKind) (s : State) : (fail e s).busy = false := rfl
@[simp] theorem fail_host (e : ErrorKind) (s : State) : (fail e s).host = s.host := rfl
@[simp] theorem fail_resetInput (e : ErrorKind) (s : State) : (fail e s).resetInput = s.resetInput := rfl
@[simp] theorem fail_dataPort (e : ErrorKind) (s : State) : (fail e s).dataPort = s.dataPort := rfl
@[simp] theorem fail_txAnswers (e : ErrorKind) (s : State) : (fail e s).txAnswers = s.txAnswers := rfl
@[simp] theorem fail_rxAnswers (e : ErrorKind) (s : State) : (fail e s).rxAnswers = s.rxAnswers := rfl
@[simp] theorem fail_sleepAnswers (e : ErrorKind) (s : State) : (fail e s).sleepAnswers = s.sleepAnswers := rfl
@[simp] theorem fail_events (e : ErrorKind) (s : State) : (fail e s).events = s.events := rfl
@[simp] theorem fail_pos (e : ErrorKind) (s : State) : (fail e s).pos = .start := rfl
@[simp] theorem fail_copyLength (e : ErrorKind) (s : State) : (fail e s).copyLength = 0 := rfl
@[simp] theorem fail_resets (e : ErrorKind) (s : State) : (fail e s).resets = s.resets := rfl
@[simp] theorem fail_cfg (e : ErrorKind) (s : State) : (fail e s).cfg = s.cfg := rfl

/-! ### raiseFault -/

@[simp] theorem raiseFault_buf (f : FaultCode) (s : State) : (raiseFault f s).buf = s.buf := rfl
@[simp] theorem raiseFault_offset (f : FaultCode) (s : State) : (raiseFault f s).offset = s.offset := rfl
@[simp] theorem raiseFault_checksum (f : FaultCode) (s : State) : (raiseFault f s).checksum = s.checksum := rfl
@[simp] theorem raiseFault_lastIoStatus (f : FaultCode) (s : State) : (raiseFault f s).lastIoStatus = s.lastIoStatus := rfl
@[simp] theorem raiseFault_io (f : FaultCode) (s : State) : (raiseFault f s).io = s.io := rfl
@[simp] theorem raiseFault_hdr (f : FaultCode) (s : State) : (raiseFault f s).hdr = s.hdr := rfl
@[simp] theorem raiseFault_result (f : FaultCode) (s : State) : (raiseFault f s).result = s.result := rfl
@[simp] theorem raiseFault_mode (f : FaultCode) (s : State) : (raiseFault f s).mode = .invalid := rfl
@[simp] theorem raiseFault_phase (f : FaultCode) (s : State) : (raiseFault f s).phase = .idle := rfl
@[simp] theorem raiseFault_idx (f : FaultCode) (s : State) : (raiseFault f s).idx = 0 := rfl
@[simp] theorem raiseFault_budget (f : FaultCode) (s : State) : (raiseFault f s).budget = s.budget := rfl
@[simp] theorem raiseFault_explen (f : FaultCode) (s : State) : (raiseFault f s).explen = s.explen := rfl
@[simp] theorem raiseFault_fault (f : FaultCode) (s : State) : (raiseFault f s).fault = if s.fault = .noFault then f else s.fault := rfl
@[simp] theorem raiseFault_busy (f : FaultCode) (s : State) : (raiseFault f s).busy = false := rfl
@[simp] theorem raiseFault_host (f : FaultCode) (s : State) : (raiseFault f s).host = s.host := rfl
@[simp] theorem raiseFault_resetInput (f : FaultCode) (s : State) : (raiseFault f s).resetInput = s.resetInput := rfl
@[simp] theorem raiseFault_dataPort (f : FaultCode) (s : State) : (raiseFault f s).dataPort = s.dataPort := rfl
@[simp] theorem raiseFault_txAnswers (f : FaultCode) (s : State) : (raiseFault f s).txAnswers = s.txAnswers := rfl
@[simp] theorem raiseFault_rxAnswers (f : FaultCode) (s : State) : (raiseFault f s).rxAnswers = s.rxAnswers := rfl
@[simp] theorem raiseFault_sleepAnswers (f : FaultCode) (s : State) : (raiseFault f s).sleepAnswers = s.sleepAnswers := rfl
@[simp] theorem raiseFault_events (f : FaultCode) (s : State) : (raiseFault f s).events = s.events := rfl
@[simp] theorem raiseFault_pos (f : FaultCode) (s : State) : (raiseFault f s).pos = .start := rfl
@[simp] theorem raiseFault_copyLength (f : FaultCode) (s : State) : (raiseFault f s).copyLength = 0 := rfl
@[simp] theorem raiseFault_resets (f : FaultCode) (s : State) : (raiseFault f s).resets = s.resets := rfl
@[simp] theorem raiseFault_cfg (f : FaultCode) (s : State) : (raiseFault f s).cfg = s.cfg := rfl

/-! ### endAppend -/

@[simp] theorem endAppend_buf (n : Nat) (s : State) : (endAppend n s).buf = s.buf := rfl
@[simp] theorem endAppend_offset (n : Nat) (s : State) : (endAppend n s).offset = BitVec.ofNat 16 (s.offset.toNat + n) := rfl
@[simp] theorem endAppend_checksum (n : Nat) (s : State) : (endAppend n s).checksum = s.checksum := rfl
@[simp] theorem endAppend_lastIoStatus (n : Nat) (s : State) : (endAppend n s).lastIoStatus = s.lastIoStatus := rfl
@[simp] theorem endAppend_io (n : Nat) (s : State) : (endAppend n s).io = s.io := rfl
@[simp] theorem endAppend_hdr (n : Nat) (s : State) : (endAppend n s).hdr = s.hdr := rfl
@[simp] theorem endAppend_result (n : Nat) (s : State) : (endAppend n s).result = s.result := rfl
@[simp] theorem endAppend_mode (n : Nat) (s : State) : (endAppend n s).mode = s.mode := rfl
@[simp] theorem endAppend_phase (n : Nat) (s : State) : (endAppend n s).phase = .idle := rfl
@[simp] theorem endAppend_idx (n : Nat) (s : State) : (endAppend n s).idx = 0 := rfl
@[simp] theorem endAppend_budget (n : Nat) (s : State) : (endAppend n s).budget = s.budget := rfl
@[simp] theorem endAppend_explen (n : Nat) (s : State) : (endAppend n s).explen = s.explen := rfl
@[simp] theorem endAppend_fault (n : Nat) (s : State) : (endAppend n s).fault = s.fault := rfl
@[simp] theorem endAppend_busy (n : Nat) (s : State) : (endAppend n s).busy = false := rfl
@[simp] theorem endAppend_host (n : Nat) (s : State) : (endAppend n s).host = s.host := rfl
@[simp] theorem endAppend_resetInput (n : Nat) (s : State) : (endAppend n s).resetInput = s.resetInput := rfl
@[simp] theorem endAppend_dataPort (n : Nat) (s : State) : (endAppend n s).dataPort = s.dataPort := rfl
@[simp] theorem endAppend_txAnswers (n : Nat) (s : State) : (endAppend n s).txAnswers = s.txAnswers := rfl
@[simp] theorem endAppend_rxAnswers (n : Nat) (s : State) : (endAppend n s).rxAnswers = s.rxAnswers := rfl
@[simp] theorem endAppend_sleepAnswers (n : Nat) (s : State) : (endAppend n s).sleepAnswers = s.sleepAnswers := rfl
@[simp] theorem endAppend_events (n : Nat) (s : State) : (endAppend n s).events = s.events := rfl
@[simp] theorem endAppend_pos (n : Nat) (s : State) : (endAppend n s).pos = .start := rfl
@[simp] theorem endAppend_copyLength (n : Nat) (s : State) : (endAppend n s).copyLength = 0 := rfl
@[simp] theorem endAppend_resets (n : Nat) (s : State) : (endAppend n s).resets = s.resets := rfl
@[simp] theorem endAppend_cfg (n : Nat) (s : State) : (endAppend n s).cfg = s.cfg := rfl

/-! ### enterResponse -/

@[simp] theorem enterResponse_buf (e : Byte) (t : BitVec 16) (s : State) : (enterResponse e t s).buf = s.buf := rfl
@[simp] theorem enterResponse_offset (e : Byte) (t : BitVec 16) (s : State) : (enterResponse e t s).offset = 0 := rfl
@[simp] theorem enterResponse_checksum (e : Byte) (t : BitVec 16) (s : State) : (enterResponse e t s).checksum = 0 := rfl
@[simp] theorem enterResponse_lastIoStatus (e : Byte) (t : BitVec 16) (s : State) : (enterResponse e t s).lastIoStatus = 0 := rfl
@[simp] theorem enterResponse_io (e : Byte) (t : BitVec 16) (s : State) : (enterResponse e t s).io = .reader := rfl
@[simp] theorem enterResponse_hdr (e : Byte) (t : BitVec 16) (s : State) : (enterResponse e t s).hdr = s.hdr := rfl
@[simp] theorem enterResponse_result (e : Byte) (t : BitVec 16) (s : State) : (enterResponse e t s).result = s.result := rfl
@[simp] theorem enterResponse_mode (e : Byte) (t : BitVec 16) (s : State) : (enterResponse e t s).mode = s.mode := rfl
@[simp] theorem enterResponse_phase (e : Byte) (t : BitVec 16) (s : State) : (enterResponse e t s).phase = .rxP1 := rfl
@[simp] theorem enterResponse_idx (e : Byte) (t : BitVec 16) (s : State) : (enterResponse e t s).idx = 0 := rfl
@[simp] theorem enterResponse_budget (e : Byte) (t : BitVec 16) (s : State) : (enterResponse e t s).budget = t := rfl
@[simp] theorem enterResponse_explen (e : Byte) (t : BitVec 16) (s : State) : (enterResponse e t s).explen = e := rfl
@[simp] theorem enterResponse_fault (e : Byte) (t : BitVec 16) (s : State) : (enterResponse e t s).fault = s.fault := rfl
@[simp] theorem enterResponse_busy (e : Byte) (t : BitVec 16) (s : State) : (enterResponse e t s).busy = true := rfl
@[simp] theorem enterResponse_host (e : Byte) (t : BitVec 16) (s : State) : (enterResponse e t s).host = s.host := rfl
@[simp] theorem enterResponse_resetInput (e : Byte) (t : BitVec 16) (s : State) : (enterResponse e t s).resetInput = s.resetInput := rfl
@[simp] theorem enterResponse_dataPort (e : Byte) (t : BitVec 16) (s : State) : (enterResponse e t s).dataPort = s.dataPort := rfl
@[simp] theorem enterResponse_txAnswers (e : Byte) (t : BitVec 16) (s : State) : (enterResponse e t s).txAnswers = s.txAnswers := rfl
@[simp] theorem enterResponse_rxAnswers (e : Byte) (t : BitVec 16) (s : State) : (enterResponse e t s).rxAnswers = s.rxAnswers := rfl
@[simp] theorem enterResponse_sleepAnswers (e : Byte) (t : BitVec 16) (s : State) : (enterResponse e t s).sleepAnswers = s.sleepAnswers := rfl
@[simp] theorem enterResponse_events (e : Byte) (t : BitVec 16) (s : State) : (enterResponse e t s).events = s.events := rfl
@[simp] theorem enterResponse_pos (e : Byte) (t : BitVec 16) (s : State) : (enterResponse e t s).pos = .start := rfl
@[simp] theorem enterResponse_copyLength (e : Byte) (t : BitVec 16) (s : State) : (enterResponse e t s).copyLength = s.copyLength := rfl
@[simp] theorem enterResponse_resets (e : Byte) (t : BitVec 16) (s : State) : (enterResponse e t s).resets = s.resets := rfl
@[simp] theorem enterResponse_cfg (e : Byte) (t : BitVec 16) (s : State) : (enterResponse e t s).cfg = s.cfg := rfl

end Sys2Proof.Machine
end

