-- ==== Sys2Proof/Laws/Memory.lean ====
section
/-! SUPPORT. BUF: a read after a write, and that every memory operation keeps the canonical form. -/

namespace Sys2Proof.Machine

@[simp] theorem Memory.find_nil (a : Nat) : Memory.find [] a = none := rfl

theorem Memory.find_put_same (m : Memory) (a : Nat) (v : Byte) : Memory.find (Memory.put m a v) a = some v := by
  induction m with
  | nil => simp [Memory.put, Memory.find]
  | cons c rest ih =>
    obtain ⟨b, w⟩ := c
    simp only [Memory.put]
    split
    · simp [Memory.find]
    · split
      · simp [Memory.find]
      · simp [Memory.find, *]

theorem Memory.find_put_other (m : Memory) (a b : Nat) (v : Byte) (h : b ≠ a) :
    Memory.find (Memory.put m a v) b = Memory.find m b := by
  induction m with
  | nil => simp [Memory.put, Memory.find, h]
  | cons c rest ih =>
    obtain ⟨x, w⟩ := c
    simp only [Memory.put]
    split
    · simp [Memory.find, h]
    · split
      · next hx => subst hx; simp [Memory.find, h]
      · simp [Memory.find, ih]

theorem Memory.risesFrom_put (m : Memory) (x a : Nat) (v : Byte) (hx : x < a) (h : Memory.risesFrom x m = true) :
    Memory.risesFrom x (Memory.put m a v) = true := by
  induction m generalizing x with
  | nil => simp [Memory.put, Memory.risesFrom, hx]
  | cons c rest ih =>
    obtain ⟨b, w⟩ := c
    simp only [Memory.risesFrom, Bool.and_eq_true, decide_eq_true_eq] at h
    simp only [Memory.put]
    split
    · simp [Memory.risesFrom, *]
    · split
      · next hab => subst hab; simp [Memory.risesFrom, h]
      · simp only [Memory.risesFrom, Bool.and_eq_true, decide_eq_true_eq]
        exact ⟨h.1, ih b (by omega) h.2⟩

/-- A write keeps the canonical form. -/
theorem Memory.wf_put (m : Memory) (a : Nat) (v : Byte) (h : Memory.wf m = true) :
    Memory.wf (Memory.put m a v) = true := by
  cases m with
  | nil => rfl
  | cons c rest =>
    obtain ⟨b, w⟩ := c
    simp only [Memory.wf] at h
    simp only [Memory.put]
    split
    · simp [Memory.wf, Memory.risesFrom, *]
    · split
      · next hab => subst hab; simpa [Memory.wf] using h
      · simpa [Memory.wf] using Memory.risesFrom_put rest b a v (by omega) h

/-- A write lists no address but the one written. -/
theorem Memory.mem_put (m : Memory) (a : Nat) (v : Byte) (c : Host.Cell) (h : c ∈ Memory.put m a v) :
    c.1 = a ∨ c ∈ m := by
  induction m with
  | nil => simp [Memory.put] at h; simp [h]
  | cons d rest ih =>
    obtain ⟨b, w⟩ := d
    simp only [Memory.put] at h
    split at h
    · rcases List.mem_cons.1 h with h | h
      · simp [h]
      · exact .inr h
    · split at h
      · rcases List.mem_cons.1 h with h | h
        · simp [h]
        · exact .inr (List.mem_cons_of_mem _ h)
      · rcases List.mem_cons.1 h with h | h
        · simp [h]
        · rcases ih h with h | h
          · exact .inl h
          · exact .inr (List.mem_cons_of_mem _ h)

@[simp] theorem bufByte_setByte_same (a : Nat) (v : Byte) (s : State) : bufByte (setByte a v s) a = v := by
  simp [bufByte, Memory.find_put_same]

theorem bufByte_setByte_other (a b : Nat) (v : Byte) (s : State) (h : b ≠ a) :
    bufByte (setByte a v s) b = bufByte s b := by
  simp [bufByte, Memory.find_put_other _ _ _ _ h]

/-- What BUF[a] reads as depends on BUF and on the number of resets alone. -/
theorem bufByte_congr {s t : State} (hb : t.buf = s.buf) (hr : t.resets = s.resets) (a : Nat) :
    bufByte t a = bufByte s a := by
  simp [bufByte, hb, hr]

theorem memWrite_eq (a : Nat) (v : Byte) (s : State) (h : a < s.cfg.capacity) : memWrite a v s = .go (setByte a v s) :=
  if_pos h

/-- What a write can do. -/
theorem memWrite_cases (a : Nat) (v : Byte) (s : State) :
    (a < s.cfg.capacity ∧ memWrite a v s = .go (setByte a v s)) ∨
    (s.cfg.capacity ≤ a ∧ memWrite a v s = .bad (.noSuchAddress a)) := by
  unfold memWrite
  split
  · exact .inl ⟨‹_›, rfl⟩
  · exact .inr ⟨Nat.le_of_not_lt ‹_›, rfl⟩

theorem readByte_eq (a : Nat) (s : State) (k : Byte → Flow) (h : a < s.cfg.capacity) :
    readByte a s k = k (bufByte s a) := by
  simp [readByte, memRead, h]

/-- The canonical form and the address space are kept by a write that is made. -/
theorem setByte_keeps_buf (a : Nat) (v : Byte) (s : State) (ha : a < s.cfg.capacity)
    (h : Memory.wf s.buf = true ∧ ∀ c ∈ s.buf, c.1 < s.cfg.capacity) :
    Memory.wf (setByte a v s).buf = true ∧ ∀ c ∈ (setByte a v s).buf, c.1 < (setByte a v s).cfg.capacity := by
  refine ⟨Memory.wf_put _ _ _ h.1, fun c hc => ?_⟩
  rcases Memory.mem_put _ _ _ _ hc with hc | hc
  · simpa [hc] using ha
  · exact h.2 c hc

/-- `writeBytes` within the address space: the bytes stand where they were written, every other byte of BUF and every
other field is unchanged. -/
theorem writeBytes_eq (a : Nat) (e : List Byte) (s : State) (h : a + e.length ≤ s.cfg.capacity) :
    ∃ m, writeBytes a e s = .go { s with buf := m } ∧
      (∀ k (hk : k < e.length), Memory.find m (a + k) = some e[k]) ∧
      (∀ b, b < a ∨ a + e.length ≤ b → Memory.find m b = Memory.find s.buf b) ∧
      (Memory.wf s.buf = true → Memory.wf m = true) ∧
      ((∀ c ∈ s.buf, c.1 < s.cfg.capacity) → ∀ c ∈ m, c.1 < s.cfg.capacity) := by
  induction e generalizing a s with
  | nil => exact ⟨s.buf, rfl, by simp, by simp, id, id⟩
  | cons b rest ih =>
    simp only [List.length_cons] at h
    obtain ⟨m, h1, h2, h3, h4, h5⟩ := ih (a + 1) (setByte a b s) (by simp; omega)
    refine ⟨m, ?_, ?_, ?_, ?_, ?_⟩
    · simp only [writeBytes, memWrite_eq a b s (by omega), andThen]
      exact h1
    · intro k hk
      cases k with
      | zero =>
        rw [Nat.add_zero, h3 a (by omega)]
        exact Memory.find_put_same _ _ _
      | succ k =>
        have := h2 k (by simpa using hk)
        simpa [Nat.add_assoc, Nat.add_comm 1 k] using this
    · intro x hx
      simp only [List.length_cons] at hx
      rw [h3 x (by omega)]
      exact Memory.find_put_other _ _ _ _ (by omega)
    · exact fun hw => h4 (Memory.wf_put _ _ _ hw)
    · intro hc c hm
      refine h5 ?_ c hm
      intro d hd
      rcases Memory.mem_put _ _ _ _ hd with hd | hd
      · simp [hd]; omega
      · exact hc d hd

/-- The reset state's BUF is in canonical form. -/
theorem reset_buf_wf : Memory.wf State.reset.buf = true := rfl

end Sys2Proof.Machine
end

