-- ==== Sys2Proof/Laws/Evolves.lean ====
section
/-! SUPPORT. What every piece of an operation can do at most, said once: the relation Evolves, kept by each primitive, each
phase, each operation. -/

namespace Sys2Proof.Machine

/-- Neither event lists nor port queues differ but by the events between two states. -/
def Accounted (s t : State) : Prop :=
  ∃ new, t.events = s.events ++ new ∧ s.txAnswers = txStatusesOf new ++ t.txAnswers ∧
    s.rxAnswers = rxAnswersOf new ++ t.rxAnswers ∧ s.sleepAnswers = sleepsIn new + t.sleepAnswers

@[simp] theorem txStatusesOf_append (a b : List Event) : txStatusesOf (a ++ b) = txStatusesOf a ++ txStatusesOf b :=
  List.filterMap_append

@[simp] theorem rxAnswersOf_append (a b : List Event) : rxAnswersOf (a ++ b) = rxAnswersOf a ++ rxAnswersOf b :=
  List.filterMap_append

@[simp] theorem sleepsIn_append (a b : List Event) : sleepsIn (a ++ b) = sleepsIn a + sleepsIn b :=
  List.count_append

theorem Accounted.refl {s t : State} (he : t.events = s.events) (ht : t.txAnswers = s.txAnswers)
    (hr : t.rxAnswers = s.rxAnswers) (hs : t.sleepAnswers = s.sleepAnswers) : Accounted s t :=
  ⟨[], by simp [he], by simp [txStatusesOf, ht], by simp [rxAnswersOf, hr], by simp [sleepsIn, hs]⟩

theorem Accounted.trans {s t u : State} (h1 : Accounted s t) (h2 : Accounted t u) : Accounted s u := by
  obtain ⟨n1, a1, b1, c1, d1⟩ := h1
  obtain ⟨n2, a2, b2, c2, d2⟩ := h2
  exact ⟨n1 ++ n2, by simp [a2, a1], by simp [b1, b2], by simp [c1, c2], by simp [d1, d2, Nat.add_assoc]⟩

/-- From s a running operation can have come to t: the parameters, the host's side and the reset line are as before, a
held fault stays, MODE is as before while the operation runs, BUF stays canonical, the events account for the answers
taken. -/
structure Evolves (s t : State) : Prop where
  cfg : t.cfg = s.cfg
  host : t.host = s.host
  resetInput : t.resetInput = s.resetInput
  resets : t.resets = s.resets
  fault : s.fault ≠ .noFault → t.fault = s.fault
  busy : t.busy = true → s.busy = true
  mode : t.busy = true → t.mode = s.mode
  buf : BufInv s → BufInv t
  accounted : Accounted s t

theorem Evolves.trans {s t u : State} (h1 : Evolves s t) (h2 : Evolves t u) : Evolves s u where
  cfg := h2.cfg.trans h1.cfg
  host := h2.host.trans h1.host
  resetInput := h2.resetInput.trans h1.resetInput
  resets := h2.resets.trans h1.resets
  fault := fun h => by
    have := h1.fault h
    exact (h2.fault (by simpa [this] using h)).trans this
  busy := fun h => h1.busy (h2.busy h)
  mode := fun h => (h2.mode h).trans (h1.mode (h2.busy h))
  buf := fun h => h2.buf (h1.buf h)
  accounted := h1.accounted.trans h2.accounted

/-- An update of other fields evolves. -/
theorem Evolves.of_eq {s t : State} (h1 : t.cfg = s.cfg) (h2 : t.host = s.host) (h3 : t.resetInput = s.resetInput)
    (h4 : t.resets = s.resets) (h5 : t.fault = s.fault) (h6 : t.busy = s.busy) (h7 : t.mode = s.mode)
    (h8 : t.buf = s.buf) (h9 : t.events = s.events) (h10 : t.txAnswers = s.txAnswers)
    (h11 : t.rxAnswers = s.rxAnswers) (h12 : t.sleepAnswers = s.sleepAnswers) : Evolves s t where
  cfg := h1
  host := h2
  resetInput := h3
  resets := h4
  fault := fun _ => h5
  busy := fun h => h6 ▸ h
  mode := fun _ => h7
  buf := fun h => by simpa [BufInv, h8, h1] using h
  accounted := Accounted.refl h9 h10 h11 h12

theorem Evolves.rfl {s : State} : Evolves s s :=
  .of_eq (Eq.refl _) (Eq.refl _) (Eq.refl _) (Eq.refl _) (Eq.refl _) (Eq.refl _) (Eq.refl _) (Eq.refl _) (Eq.refl _)
    (Eq.refl _) (Eq.refl _) (Eq.refl _)

/-! ### Flows -/

/-- Every state the flow goes on with or stops at is R-related to s. -/
def Leads (R : State → State → Prop) (s : State) (f : Flow) : Prop :=
  match f with
  | .go t => R s t
  | .stop t => R s t
  | .bad _ => True

@[simp] theorem leads_go {R : State → State → Prop} {s t : State} : Leads R s (.go t) = R s t := rfl
@[simp] theorem leads_stop {R : State → State → Prop} {s t : State} : Leads R s (.stop t) = R s t := rfl
@[simp] theorem leads_bad {R : State → State → Prop} {s : State} {x : Fault} : Leads R s (.bad x) = True := rfl

theorem Leads.andThen {R : State → State → Prop} (htrans : ∀ a b c, R a b → R b c → R a c) {s : State} {f : Flow}
    {k : State → Flow} (hf : Leads R s f) (hk : ∀ t, Leads R t (k t)) : Leads R s (Machine.andThen f k) := by
  cases f with
  | go t =>
    have h := hk t
    simp only [Machine.andThen]
    cases hkt : k t <;> simp only [hkt, Leads] at h ⊢
    · exact htrans _ _ _ hf h
    · exact htrans _ _ _ hf h
  | stop t => exact hf
  | bad x => trivial

/-- A relation carried along a flow from an earlier state. -/
theorem Leads.from {R : State → State → Prop} (htrans : ∀ a b c, R a b → R b c → R a c) {s t : State} {f : Flow}
    (h : R s t) (hf : Leads R t f) : Leads R s f := by
  cases f with
  | go u => exact htrans _ _ _ h hf
  | stop u => exact htrans _ _ _ h hf
  | bad x => trivial

/-- What a flow's outcome can be. -/
theorem Leads.next {R : State → State → Prop} {s t : State} {f : Flow} (h : Leads R s f) (ho : outcome f = .next t) :
    R s t := by
  cases f <;> simp only [outcome, Host.Outcome.next.injEq, reduceCtorEq] at ho
  · exact ho ▸ h
  · exact ho ▸ h

theorem evolves_trans (s t u : State) (h1 : Evolves s t) (h2 : Evolves t u) : Evolves s u := h1.trans h2

/-! ### The primitives evolve -/

theorem evolves_end {s t : State} (h1 : t.cfg = s.cfg) (h2 : t.host = s.host) (h3 : t.resetInput = s.resetInput)
    (h4 : t.resets = s.resets) (h5 : s.fault ≠ .noFault → t.fault = s.fault) (h6 : t.busy = false)
    (h8 : t.buf = s.buf) (h9 : t.events = s.events) (h10 : t.txAnswers = s.txAnswers)
    (h11 : t.rxAnswers = s.rxAnswers) (h12 : t.sleepAnswers = s.sleepAnswers) : Evolves s t where
  cfg := h1
  host := h2
  resetInput := h3
  resets := h4
  fault := h5
  busy := fun h => by simp [h6] at h
  mode := fun h => by simp [h6] at h
  buf := fun h => by simpa [BufInv, h8, h1] using h
  accounted := Accounted.refl h9 h10 h11 h12

theorem evolves_fail (e : ErrorKind) (s : State) : Evolves s (fail e s) := by
  apply evolves_end <;> simp

theorem evolves_raiseFault (f : FaultCode) (s : State) : Evolves s (raiseFault f s) := by
  apply evolves_end <;> simp +contextual

theorem evolves_returnSuccess (m : Mode) (s : State) : Evolves s (returnSuccess m s) := by
  apply evolves_end <;> simp

theorem evolves_endAppend (n : Nat) (s : State) : Evolves s (endAppend n s) := by
  apply evolves_end <;> simp

theorem evolves_toPhase (p : Phase) (s : State) : Evolves s (toPhase p s) := by
  apply Evolves.of_eq <;> rfl

theorem evolves_accumulate (b : Byte) (s : State) : Evolves s (accumulate b s) := by
  apply Evolves.of_eq <;> rfl

theorem evolves_spendBudget (s : State) : Evolves s (spendBudget s) := by
  apply Evolves.of_eq <;> rfl

theorem leads_memWrite (a : Nat) (v : Byte) (s : State) : Leads Evolves s (memWrite a v s) := by
  rcases memWrite_cases a v s with ⟨h, he⟩ | ⟨_, he⟩
  · rw [he]
    exact { cfg := rfl, host := rfl, resetInput := rfl, resets := rfl, fault := fun _ => rfl, busy := id,
            mode := fun _ => rfl, buf := setByte_keeps_buf a v s h, accounted := .refl rfl rfl rfl rfl }
  · rw [he]; trivial

theorem leads_txByte (p : Pos) (b : Byte) (s : State) : Leads Evolves s (txByte p b s) := by
  unfold txByte
  split
  · exact .of_eq rfl rfl rfl rfl rfl rfl rfl rfl rfl rfl rfl rfl
  · next a rest h =>
    exact { cfg := rfl, host := rfl, resetInput := rfl, resets := rfl, fault := fun _ => rfl, busy := id,
            mode := fun _ => rfl, buf := id,
            accounted := ⟨[.tx b a], rfl, by simp [txStatusesOf, h], by simp [rxAnswersOf], by simp [sleepsIn]⟩ }

theorem leads_sleepOne (s : State) : Leads Evolves s (sleepOne s) := by
  unfold sleepOne
  split
  · exact .of_eq rfl rfl rfl rfl rfl rfl rfl rfl rfl rfl rfl rfl
  · next n h =>
    exact { cfg := rfl, host := rfl, resetInput := rfl, resets := rfl, fault := fun _ => rfl, busy := id,
            mode := fun _ => rfl, buf := id,
            accounted := ⟨[.sleep], rfl, by simp [txStatusesOf], by simp [rxAnswersOf],
              by simp [sleepsIn, h, Nat.add_comm]⟩ }

/-- Every state a read of a port gives is R-related to s. -/
def Gives {α : Type} (R : State → State → Prop) (s : State) (g : Got α) : Prop :=
  match g with
  | .waits t => R s t
  | .got _ t => R s t

theorem gives_rxByte (p : Pos) (s : State) : Gives Evolves s (rxByte p s) := by
  unfold rxByte
  split
  · exact .of_eq rfl rfl rfl rfl rfl rfl rfl rfl rfl rfl rfl rfl
  · next a rest h =>
    exact { cfg := rfl, host := rfl, resetInput := rfl, resets := rfl, fault := fun _ => rfl, busy := id,
            mode := fun _ => rfl, buf := id,
            accounted := ⟨[.rx a], rfl, by simp [txStatusesOf], by simp [rxAnswersOf, h], by simp [sleepsIn]⟩ }

/-! ### The serializer evolves -/

theorem leads_writeBytes (a : Nat) (e : List Byte) (s : State) : Leads Evolves s (writeBytes a e s) := by
  induction e generalizing a s with
  | nil => exact Evolves.rfl
  | cons b rest ih => exact (leads_memWrite a b s).andThen evolves_trans fun t => ih (a + 1) t

theorem leads_guardAppend (n : Nat) (s : State) (k : State → Flow) (hk : Leads Evolves s (k s)) :
    Leads Evolves s (guardAppend n s k) := by
  unfold guardAppend
  split
  · exact evolves_raiseFault _ _
  · split
    · exact evolves_raiseFault _ _
    · exact hk

theorem leads_append (e : List Byte) (s : State) : Leads Evolves (accept .idle s) (append e s) :=
  leads_guardAppend _ _ _ ((leads_writeBytes _ _ _).andThen evolves_trans fun t => evolves_endAppend _ t)

theorem leads_copyLoop (n : Nat) (s : State) : Leads Evolves s (copyLoop n s) := by
  induction n generalizing s with
  | zero => exact evolves_endAppend _ _
  | succ n ih =>
    unfold copyLoop
    split
    · exact Evolves.rfl
    · next b rest h =>
      refine (Leads.from evolves_trans (t := { s with dataPort := rest }) ?_ (leads_memWrite _ _ _)).andThen
        evolves_trans fun t => Leads.from evolves_trans (t := { t with idx := t.idx + 1 }) ?_ (ih _)
      · exact .of_eq rfl rfl rfl rfl rfl rfl rfl rfl rfl rfl rfl rfl
      · exact .of_eq rfl rfl rfl rfl rfl rfl rfl rfl rfl rfl rfl rfl

theorem leads_copyPhase (s : State) : Leads Evolves s (copyPhase s) := leads_copyLoop _ s

/-! ### The encoder evolves -/

theorem leads_sendByte (p : Pos) (b : Byte) (s : State) : Leads Evolves s (sendByte p b s) :=
  (leads_txByte p b s).andThen evolves_trans fun t => by
    split
    · exact evolves_fail _ _
    · exact Evolves.rfl

theorem leads_symbolFirst (b : Byte) (s : State) : Leads Evolves s (symbolFirst b s) := by
  unfold symbolFirst
  split
  · exact (leads_sendByte _ _ _).andThen evolves_trans fun t => leads_sendByte _ _ t
  · exact leads_sendByte _ _ _

theorem leads_stuffAndWrite (b : Byte) (s : State) : Leads Evolves s (stuffAndWrite b s) := by
  unfold stuffAndWrite
  split
  · exact Leads.from evolves_trans (evolves_accumulate b s) (leads_symbolFirst _ _)
  · exact leads_symbolFirst _ _
  · exact leads_sendByte _ _ _
  · exact Leads.from evolves_trans (evolves_accumulate b s) (leads_symbolFirst _ _)
  · exact Leads.from evolves_trans (evolves_accumulate b s) (leads_symbolFirst _ _)

theorem leads_txStopPhase (s : State) : Leads Evolves s (txStopPhase s) :=
  (leads_sendByte _ _ _).andThen evolves_trans fun t => evolves_returnSuccess _ t

theorem leads_txCsumPhase (s : State) : Leads Evolves s (txCsumPhase s) :=
  (leads_stuffAndWrite _ _).andThen evolves_trans fun t =>
    Leads.from evolves_trans (evolves_toPhase _ t) (leads_txStopPhase _)

theorem leads_readByte (a : Nat) (s : State) (k : Byte → Flow) (hk : ∀ b, Leads Evolves s (k b)) :
    Leads Evolves s (readByte a s k) := by
  unfold readByte
  split
  · exact hk _
  · trivial

theorem leads_txBodyLoop (n : Nat) (s : State) : Leads Evolves s (txBodyLoop n s) := by
  induction n generalizing s with
  | zero => exact Evolves.rfl
  | succ n ih =>
    refine leads_readByte _ _ _ fun b => (leads_stuffAndWrite _ _).andThen evolves_trans fun t =>
      Leads.from evolves_trans (t := { t with idx := t.idx + 1 }) ?_ (ih _)
    exact .of_eq rfl rfl rfl rfl rfl rfl rfl rfl rfl rfl rfl rfl

theorem leads_txBodyPhase (s : State) : Leads Evolves s (txBodyPhase s) :=
  (leads_txBodyLoop _ _).andThen evolves_trans fun t =>
    Leads.from evolves_trans (evolves_toPhase _ t) (leads_txCsumPhase _)

theorem leads_txStartPhase (s : State) : Leads Evolves s (txStartPhase s) :=
  (leads_sendByte _ _ _).andThen evolves_trans fun t =>
    Leads.from evolves_trans (evolves_toPhase _ t) (leads_txBodyPhase _)

theorem leads_txCheckPhase (s : State) : Leads Evolves s (txCheckPhase s) := by
  refine Leads.from evolves_trans (t := { s with io := .writer })
    (.of_eq rfl rfl rfl rfl rfl rfl rfl rfl rfl rfl rfl rfl) (leads_readByte _ _ _ fun b => ?_)
  split
  · exact evolves_fail _ _
  · exact Leads.from evolves_trans (evolves_toPhase _ _) (leads_txStartPhase _)

/-! ### The decoder evolves -/

theorem gives_unstuffSecond (s : State) : Gives Evolves s (unstuffSecond s) := by
  have h := gives_rxByte .rxSecond s
  unfold unstuffSecond
  split
  · next he => rw [he] at h; exact h
  · next d t he =>
    rw [he] at h
    split
    · exact h
    · exact Evolves.trans h (evolves_accumulate _ _)

theorem gives_unstuffFirst (s : State) : Gives Evolves s (unstuffFirst s) := by
  have h := gives_rxByte .start s
  unfold unstuffFirst
  split
  · next he => rw [he] at h; exact h
  · next d t he =>
    rw [he] at h
    split
    · exact h
    · split
      · have h2 := gives_unstuffSecond t
        cases hu : unstuffSecond t <;> rw [hu] at h2
        · exact Evolves.trans h h2
        · exact Evolves.trans h h2
      · exact Evolves.trans h (evolves_accumulate _ _)

theorem gives_unstuff (s : State) : Gives Evolves s (unstuff s) := by
  unfold unstuff
  split
  · exact gives_unstuffSecond s
  · exact gives_unstuffFirst s
  · exact gives_unstuffFirst s
  · exact gives_unstuffFirst s
  · exact gives_unstuffFirst s

theorem leads_rxP7Phase (s : State) : Leads Evolves s (rxP7Phase s) := by
  have h := gives_rxByte .start s
  unfold rxP7Phase
  split
  · next he => rw [he] at h; exact h
  · next d t he =>
    rw [he] at h
    split
    · exact Evolves.trans h (evolves_fail _ _)
    · exact Evolves.trans h (evolves_returnSuccess _ _)

theorem leads_rxP6Phase (s : State) : Leads Evolves s (rxP6Phase s) := by
  unfold rxP6Phase
  split
  · exact evolves_fail _ _
  · exact Leads.from evolves_trans (evolves_toPhase _ _) (leads_rxP7Phase _)

theorem leads_rxP5Phase (s : State) : Leads Evolves s (rxP5Phase s) := by
  have h := gives_unstuff s
  unfold rxP5Phase
  split
  · next he => rw [he] at h; exact h
  · next t he => rw [he] at h; exact Evolves.trans h (evolves_fail _ _)
  · next v t he =>
    rw [he] at h
    split
    · exact Evolves.trans h (evolves_fail _ _)
    · exact Leads.from evolves_trans (Evolves.trans h (evolves_toPhase _ _)) (leads_rxP6Phase _)

theorem leads_storePayload (v : Byte) (s : State) : Leads Evolves s (storePayload v s) := by
  unfold storePayload
  split
  · exact evolves_raiseFault _ _
  · exact (leads_memWrite _ _ _).andThen evolves_trans fun t => .of_eq rfl rfl rfl rfl rfl rfl rfl rfl rfl rfl rfl rfl

theorem leads_rxP4Loop (n : Nat) (s : State) : Leads Evolves s (rxP4Loop n s) := by
  induction n generalizing s with
  | zero => exact Evolves.rfl
  | succ n ih =>
    have h := gives_unstuff s
    unfold rxP4Loop
    split
    · split
      · next he => rw [he] at h; exact h
      · next v t he =>
        rw [he] at h
        exact Leads.from evolves_trans h ((leads_storePayload v t).andThen evolves_trans fun u => ih u)
      · next t he =>
        rw [he] at h
        split
        · exact Evolves.trans h (evolves_fail _ _)
        · exact Leads.from evolves_trans (Evolves.trans h (evolves_spendBudget t))
            ((leads_sleepOne _).andThen evolves_trans fun u => ih u)
    · exact Evolves.rfl

theorem leads_rxP4Exit (s : State) : Leads Evolves s (rxP4Exit s) := by
  unfold rxP4Exit
  split
  · exact evolves_fail _ _
  · exact Leads.from evolves_trans (evolves_toPhase _ _) (leads_rxP5Phase _)

theorem leads_rxP4Phase (s : State) : Leads Evolves s (rxP4Phase s) := by
  refine Leads.andThen evolves_trans ?_ fun t => (leads_rxP4Loop _ t).andThen evolves_trans fun u => leads_rxP4Exit u
  split
  · exact leads_sleepOne s
  · exact Evolves.rfl

theorem leads_rxP3Phase (s : State) : Leads Evolves s (rxP3Phase s) := by
  unfold rxP3Phase
  split
  · exact evolves_fail _ _
  · exact Leads.from evolves_trans (evolves_toPhase _ _) (leads_rxP4Phase _)

theorem leads_rxP2Loop (n : Nat) (s : State) : Leads Evolves s (rxP2Loop n s) := by
  induction n generalizing s with
  | zero => exact Evolves.rfl
  | succ n ih =>
    have h := gives_unstuff s
    unfold rxP2Loop
    split
    · next he => rw [he] at h; exact h
    · next t he => rw [he] at h; exact Evolves.trans h (evolves_fail _ _)
    · next v t he =>
      rw [he] at h
      refine Leads.from evolves_trans (Evolves.trans h ?_) (ih _)
      exact .of_eq rfl rfl rfl rfl rfl rfl rfl rfl rfl rfl rfl rfl

theorem leads_rxP2Phase (s : State) : Leads Evolves s (rxP2Phase s) :=
  (leads_rxP2Loop _ _).andThen evolves_trans fun t =>
    Leads.from evolves_trans (evolves_toPhase _ t) (leads_rxP3Phase _)

theorem leads_rxP1Loop (n : Nat) (s : State) : Leads Evolves s (rxP1Loop n s) := by
  induction n generalizing s with
  | zero => exact evolves_fail _ _
  | succ n ih =>
    have h := gives_rxByte .start s
    unfold rxP1Loop
    split
    · next he => rw [he] at h; exact h
    · next d t he =>
      rw [he] at h
      split
      · exact Evolves.trans h (evolves_fail _ _)
      · split
        · exact Leads.from evolves_trans h ((leads_sleepOne t).andThen evolves_trans fun u =>
            Leads.from evolves_trans (evolves_spendBudget u) (ih _))
        · split
          · exact Evolves.trans h (evolves_fail _ _)
          · exact h

theorem leads_rxP1Phase (s : State) : Leads Evolves s (rxP1Phase s) := by
  refine Leads.andThen evolves_trans ?_ fun t => (leads_rxP1Loop _ t).andThen evolves_trans fun u =>
    Leads.from evolves_trans (evolves_toPhase _ u) (leads_rxP2Phase _)
  split
  · exact (leads_sleepOne s).andThen evolves_trans fun t => evolves_spendBudget t
  · exact Evolves.rfl

/-! ### Operations and steps -/

/-- An operation in progress evolves. -/
theorem leads_resume (s : State) : Leads Evolves s (resume s) := by
  unfold resume
  split
  · exact Evolves.rfl
  · exact leads_copyPhase s
  · exact leads_txCheckPhase s
  · exact leads_txStartPhase s
  · exact leads_txBodyPhase s
  · exact leads_txCsumPhase s
  · exact leads_txStopPhase s
  · exact leads_rxP1Phase s
  · exact leads_rxP2Phase s
  · exact leads_rxP3Phase s
  · exact leads_rxP4Phase s
  · exact leads_rxP5Phase s
  · exact leads_rxP6Phase s
  · exact leads_rxP7Phase s

theorem evolves_accept (p : Phase) (s : State) : Evolves { s with busy := true } (accept p s) := by
  apply Evolves.of_eq <;> rfl

theorem evolves_enterResponse (e : Byte) (n : BitVec 16) (s : State) :
    Evolves { s with busy := true } (enterResponse e n s) := by
  apply Evolves.of_eq <;> rfl

/-- An operation evolves from its acceptance: the state s but for BUSY. -/
theorem exec_evolves (i : Instr) (s t : State) (h : exec i s = .next t) : Evolves { s with busy := true } t := by
  have happend : ∀ e, outcome (append e s) = .next t → Evolves { s with busy := true } t := fun e he =>
    (evolves_accept .idle s).trans ((leads_append e s).next he)
  cases i with
  | addU8 v => exact happend _ h
  | addBool v => exact happend _ h
  | addU16 v => exact happend _ h
  | addI16 v => exact happend _ h
  | addU32 v => exact happend _ h
  | addI32 v => exact happend _ h
  | addFloat v => exact happend _ h
  | addBytes n =>
    refine (evolves_accept .copy s).trans ((leads_guardAppend _ (accept .copy s) _ ?_).next h)
    exact Leads.from evolves_trans (t := { accept .copy s with copyLength := n })
      (.of_eq rfl rfl rfl rfl rfl rfl rfl rfl rfl rfl rfl rfl) (leads_copyPhase _)
  | beginStream c a l =>
    refine Leads.next (f := _) ?_ h
    refine Leads.from evolves_trans (t := { accept .idle s with checksum := 0, lastIoStatus := 0 })
      (.of_eq rfl rfl rfl rfl rfl rfl rfl rfl rfl rfl rfl rfl) ?_
    refine (leads_memWrite _ _ _).andThen evolves_trans fun t => (leads_memWrite _ _ _).andThen evolves_trans fun t =>
      (leads_memWrite _ _ _).andThen evolves_trans fun t => ?_
    apply evolves_end <;> simp
  | writeRequest =>
    refine Leads.next (f := writeRequest s) ?_ h
    unfold writeRequest
    split
    · apply evolves_end <;> simp +contextual
    · exact Leads.from evolves_trans (.of_eq rfl rfl rfl rfl rfl rfl rfl rfl rfl rfl rfl rfl) (leads_txCheckPhase _)
  | readResponse e n =>
    exact (evolves_enterResponse e n s).trans ((leads_rxP1Phase _).next h)

end Sys2Proof.Machine
end

