-- ==== Sys2Proof/Laws/PerInstr.lean ====
section
/-! SUPPORT. Statements about every operation as syntax: the family RowMatch. -/

/-- The word of an operation matches the operation's row of the opcode table. -/
def Sys2Proof.Laws.RowMatch.Statement (i : Sys2Proof.Instr) : Prop :=
  (Sys2Proof.rowOf i).matches (Sys2Proof.encode i) = true

namespace Sys2Proof.Laws.RowMatch

theorem of_bound (i : Instr) : Statement i := by
  have h := operandField_lt i
  unfold Statement
  rw [rowOf_matches, encode_toNat, decide_eq_true_eq]
  cases i <;> simp only [opCode, usedBits] at h ⊢ <;> simp at h ⊢ <;> omega

theorem addU8 (v : BitVec 8) : Statement (.addU8 v) := of_bound _
theorem addBool (v : BitVec 1) : Statement (.addBool v) := of_bound _
theorem addU16 (v : BitVec 16) : Statement (.addU16 v) := of_bound _
theorem addI16 (v : BitVec 16) : Statement (.addI16 v) := of_bound _
theorem addU32 (v : BitVec 32) : Statement (.addU32 v) := of_bound _
theorem addI32 (v : BitVec 32) : Statement (.addI32 v) := of_bound _
theorem addFloat (v : BitVec 32) : Statement (.addFloat v) := of_bound _
theorem addBytes (length : BitVec 16) : Statement (.addBytes length) := of_bound _
theorem beginStream (command address dataLength : Byte) : Statement (.beginStream command address dataLength) :=
  of_bound _
theorem writeRequest : Statement .writeRequest := of_bound _
theorem readResponse (expectedDataLength : Byte) (maxTimeoutMs : BitVec 16) :
    Statement (.readResponse expectedDataLength maxTimeoutMs) := of_bound _

end Sys2Proof.Laws.RowMatch
end

