-- ==== Sys2Proof/Laws/Transmit.lean ====
section
/-! SUPPORT. The transmit side: the signed tests, one transfer, one symbol, and the sums and symbols of byte lists. -/

namespace Sys2Proof.Machine

theorem refusedStatus_iff (s : Status) : refusedStatus s = true ↔ s.toInt < 1 := by
  unfold refusedStatus
  rw [BitVec.slt_iff_toInt_lt]
  rfl

theorem errorStatus_iff (s : Status) : errorStatus s = true ↔ s.toInt < 0 := by
  unfold errorStatus
  rw [BitVec.slt_iff_toInt_lt]
  rfl

theorem noByteStatus_iff (s : Status) : noByteStatus s = true ↔ s.toInt ≤ 0 := by
  unfold noByteStatus
  rw [BitVec.sle_iff_toInt_le]
  rfl

theorem andThen_assoc (f : Flow) (g k : State → Flow) :
    andThen (andThen f g) k = andThen f fun s => andThen (g s) k := by
  cases f <;> rfl

/-! ### Sums -/

theorem sumBytes_append (a b : List Byte) : sumBytes (a ++ b) = sumBytes a + sumBytes b := by
  have : ∀ x : Byte, b.foldl (· + ·) x = x + b.foldl (· + ·) 0 := by
    induction b with
    | nil => simp
    | cons c b ih =>
      intro x
      simp only [List.foldl_cons]
      rw [ih, ih (0 + c)]
      simp [BitVec.add_assoc]
  unfold sumBytes
  rw [List.foldl_append, this]

@[simp] theorem sumBytes_singleton (b : Byte) : sumBytes [b] = b := BitVec.zero_add b

theorem sumBytes_cons (b : Byte) (l : List Byte) : sumBytes (b :: l) = b + sumBytes l := by
  have := sumBytes_append [b] l
  rwa [sumBytes_singleton] at this

theorem sumBytes_bufPrefix_succ (s : State) (n : Nat) :
    sumBytes (bufPrefix s (n + 1)) = sumBytes (bufPrefix s n) + bufByte s n := by
  rw [bufPrefix, List.range_succ, List.map_append, sumBytes_append]
  simp [bufPrefix]

/-- A byte and its complement sum to 0xFF (R61). -/
theorem add_complement (x : Byte) : x + ~~~ x = 0xFF := by
  rw [BitVec.not_eq_neg_add, BitVec.sub_eq_add_neg, ← BitVec.add_assoc]
  simp

/-! ### Symbols -/

/-- The table of R49 and the test and inversion of the step agree. -/
theorem symbol_eq (b : Byte) : symbol b = if reservedByte b = true then [stuffMarker, invertBit5 b] else [b] := by
  unfold symbol reservedByte
  by_cases h1 : b = 0x11; · subst h1; rfl
  by_cases h2 : b = 0x13; · subst h2; rfl
  by_cases h3 : b = 0x7D; · subst h3; rfl
  by_cases h4 : b = 0x7E; · subst h4; rfl
  rw [if_neg h1, if_neg h2, if_neg h3, if_neg h4, if_neg]
  simp only [Bool.or_eq_true, beq_iff_eq, h1, h2, h3, h4, or_self, not_false_eq_true]

theorem symbol_ne_nil (b : Byte) : symbol b ≠ [] := by
  rw [symbol_eq]
  split <;> simp

theorem stuffed_cons (b : Byte) (l : List Byte) : stuffed (b :: l) = symbol b ++ stuffed l := rfl

/-! ### Transfers -/

/-- s after transfers whose last answer is `last` and whose events are `new`. -/
def transmitted (s : State) (rest : List Status) (last : Status) (new : List Event) : State :=
  { s with txAnswers := rest, lastIoStatus := last, events := s.events ++ new, pos := .start }

theorem transmitted_transmitted (s : State) (r r' : List Status) (l l' : Status) (e e' : List Event) :
    transmitted (transmitted s r l e) r' l' e' = transmitted s r' l' (e ++ e') := by
  simp [transmitted]

theorem sendByte_accepted {p : Pos} {b : Byte} {s : State} {a : Status} {rest : List Status}
    (h : s.txAnswers = a :: rest) (ha : 1 ≤ a.toInt) :
    sendByte p b s = .go (transmitted s rest a [.tx b a]) := by
  have : ¬ refusedStatus a = true := by rw [refusedStatus_iff]; omega
  simp only [sendByte, txByte, h, andThen, if_neg this]
  rfl

theorem sendByte_refused {p : Pos} {b : Byte} {s : State} {a : Status} {rest : List Status}
    (h : s.txAnswers = a :: rest) (ha : a.toInt < 1) :
    sendByte p b s = .stop (fail .transmitIncomplete (transmitted s rest a [.tx b a])) := by
  have : refusedStatus a = true := by rw [refusedStatus_iff]; omega
  simp only [sendByte, txByte, h, andThen, if_pos this]
  rfl

theorem sendByte_waits {p : Pos} {b : Byte} {s : State} (h : s.txAnswers = []) :
    sendByte p b s = .stop { s with pos := p } := by
  simp only [sendByte, txByte, h, andThen]

theorem stuffAndWrite_start {b : Byte} {s : State} (hp : s.pos = .start) :
    stuffAndWrite b s = symbolFirst b (accumulate b s) := by
  simp [stuffAndWrite, hp]

theorem txEvents_append (b b' : List Byte) (a a' : List Status) (h : b.length = a.length) :
    txEvents (b ++ b') (a ++ a') = txEvents b a ++ txEvents b' a' := List.zipWith_append h

/-- The transfers of a symbol, all accepted. -/
theorem symbolFirst_accepted {b : Byte} {s : State} {acc rest : List Status} (ha : AllAccepted acc)
    (hl : acc.length = (symbol b).length) (h : s.txAnswers = acc ++ rest) :
    symbolFirst b s = .go (transmitted s rest (acc.getLastD 0) (txEvents (symbol b) acc)) := by
  rw [symbol_eq] at hl ⊢
  unfold symbolFirst
  split at hl <;> rename_i hr
  · rw [if_pos hr, if_pos hr]
    match acc, hl with
    | [x, y], _ =>
      rw [sendByte_accepted (rest := y :: rest) h (ha x (by simp))]
      simp only [andThen, symbolSecond]
      rw [sendByte_accepted (a := y) (rest := rest) rfl (ha y (by simp)), transmitted_transmitted]
      rfl
  · rw [if_neg hr, if_neg hr]
    match acc, hl with
    | [x], _ =>
      rw [sendByte_accepted (rest := rest) h (ha x (by simp))]
      rfl

/-- The transfers of a symbol up to the first refusal. -/
theorem symbolFirst_refused {b : Byte} {s : State} {acc rest : List Status} {bad : Status} (ha : AllAccepted acc)
    (hl : acc.length < (symbol b).length) (hb : bad.toInt < 1) (h : s.txAnswers = acc ++ [bad] ++ rest) :
    symbolFirst b s =
      .stop (fail .transmitIncomplete (transmitted s rest bad (txEvents (symbol b) (acc ++ [bad])))) := by
  rw [symbol_eq] at hl ⊢
  unfold symbolFirst
  split at hl <;> rename_i hr
  · rw [if_pos hr, if_pos hr]
    match acc, hl with
    | [], _ =>
      rw [sendByte_refused (rest := rest) h hb]
      rfl
    | [x], _ =>
      rw [sendByte_accepted (rest := bad :: rest) h (ha x (by simp))]
      simp only [andThen, symbolSecond]
      rw [sendByte_refused (a := bad) (rest := rest) rfl hb, transmitted_transmitted]
      rfl
  · rw [if_neg hr, if_neg hr]
    match acc, hl with
    | [], _ =>
      rw [sendByte_refused (rest := rest) h hb]
      rfl

end Sys2Proof.Machine
end

