-- ==== Sys2Proof/Laws/Receive.lean ====
section
/-! SUPPORT. The receive side: one read, one sleep, one symbol, the retries of Phase 1 and of Phase 4, and everything a
read, a sleep or an un-stuff step can be. -/

namespace Sys2Proof.Machine

/-- A positive status brings a byte. -/
theorem noByteStatus_pos {a : Status} (h : 0 < a.toInt) : ¬ noByteStatus a = true := by
  rw [noByteStatus_iff]
  omega

/-- A status of 0 or above is no error. -/
theorem errorStatus_nonneg {a : Status} (h : 0 ≤ a.toInt) : ¬ errorStatus a = true := by
  rw [errorStatus_iff]
  omega

theorem noData_status {a : RxAnswer} (h : a.status.toInt = 0) : a.status = 0 :=
  BitVec.eq_of_toInt_eq (by rw [h]; rfl)

/-- s after reads whose last status is `last` and whose events are `new`, with CHECKSUM ck. -/
def heard (s : State) (rest : List RxAnswer) (last : Status) (new : List Event) (ck : Byte) : State :=
  { s with rxAnswers := rest, lastIoStatus := last, events := s.events ++ new, pos := .start, checksum := ck }

theorem rxByte_got {p : Pos} {s : State} {a : RxAnswer} {rest : List RxAnswer} (h : s.rxAnswers = a :: rest) :
    rxByte p s = .got a.data (heard s rest a.status [.rx a] s.checksum) := by
  simp only [rxByte, h]
  rfl

theorem rxByte_waits {p : Pos} {s : State} (h : s.rxAnswers = []) : rxByte p s = .waits { s with pos := p } := by
  simp only [rxByte, h]

theorem unstuff_start {s : State} (hp : s.pos = .start) : unstuff s = unstuffFirst s := by
  simp [unstuff, hp]

/-- The status of the last answer. -/
def lastStatus (l : List RxAnswer) : Status := (l.getLast?.map RxAnswer.status).getD 0

/-- The two forms of a symbol that brings a byte. -/
theorem RxSymbol.ok_iff (x : RxSymbol) : x.ok = true ↔
    (∃ a, x.answers = [a] ∧ 0 < a.status.toInt ∧ a.data ≠ 0x7D ∧ a.data = x.value) ∨
    ∃ m a, x.answers = [m, a] ∧ 0 < m.status.toInt ∧ m.data = 0x7D ∧ 0 < a.status.toInt ∧ a.data ^^^ 0x20 = x.value := by
  unfold RxSymbol.ok
  rcases x.answers with _ | ⟨a, _ | ⟨b, _ | ⟨c, l⟩⟩⟩ <;> simp [and_assoc]

/-- The symbol of R49 brings its byte. -/
theorem RxSymbol.ok_of_delivers {c : List RxAnswer} {v : Byte} (h : Delivers c (Machine.symbol v)) :
    (RxSymbol.mk c v).ok = true := by
  obtain ⟨h1, h2⟩ := h
  rw [RxSymbol.ok_iff]
  rw [symbol_eq] at h1
  split at h1
  · have hl := congrArg List.length h1
    simp only [List.length_map, List.length_cons, List.length_nil] at hl
    obtain ⟨x, y, rfl⟩ := List.length_eq_two.1 hl
    simp only [List.map_cons, List.map_nil, List.cons.injEq, and_true] at h1
    refine .inr ⟨x, y, rfl, h2 x (by simp), h1.1, h2 y (by simp), ?_⟩
    rw [h1.2]
    unfold invertBit5
    rw [BitVec.xor_assoc]
    simp
  · next hr =>
    have hl := congrArg List.length h1
    simp only [List.length_map, List.length_cons, List.length_nil] at hl
    obtain ⟨x, rfl⟩ := List.length_eq_one_iff.1 hl
    simp only [List.map_cons, List.map_nil, List.cons.injEq, and_true] at h1
    exact .inl ⟨x, rfl, h2 x (by simp), by rw [h1]; intro hv; apply hr; rw [hv]; rfl, h1⟩

/-- A symbol that arrives whole is un-stuffed to its byte. -/
theorem unstuff_symbol {s : State} {x : RxSymbol} {rest : List RxAnswer} (hp : s.pos = .start) (hd : x.ok = true)
    (h : s.rxAnswers = x.answers ++ rest) :
    unstuff s = .got (some x.value)
      (heard s rest (lastStatus x.answers) (rxEvents x.answers) (s.checksum + x.value)) := by
  rw [unstuff_start hp]
  unfold unstuffFirst
  rcases (RxSymbol.ok_iff x).1 hd with ⟨a, hx, ha, had, hv⟩ | ⟨m, a, hx, hm, hmd, ha, hv⟩
  · rw [hx] at h ⊢
    rw [rxByte_got (rest := rest) h]
    simp only
    rw [if_neg (by exact noByteStatus_pos ha), if_neg (by exact had), hv]
    simp [heard, accumulate, lastStatus, rxEvents]
  · rw [hx] at h ⊢
    rw [rxByte_got (rest := a :: rest) h]
    simp only
    rw [if_neg (by exact noByteStatus_pos hm), if_pos (by exact hmd)]
    unfold unstuffSecond
    rw [rxByte_got (a := a) (rest := rest) rfl]
    simp only
    rw [if_neg (by exact noByteStatus_pos ha), show invertBit5 a.data = x.value from hv]
    simp [heard, accumulate, lastStatus, rxEvents]

/-- A symbol that brings no byte. -/
theorem unstuff_broken {s : State} {c rest : List RxAnswer} (hp : s.pos = .start) (hd : BrokenSymbol c)
    (h : s.rxAnswers = c ++ rest) :
    unstuff s = .got none (heard s rest (lastStatus c) (rxEvents c) s.checksum) := by
  rw [unstuff_start hp]
  unfold unstuffFirst
  rcases hd with ⟨a, rfl, ha⟩ | ⟨m, a, rfl, hm, hmd, ha⟩
  · rw [rxByte_got (rest := rest) h]
    simp only
    rw [if_pos (by exact (noByteStatus_iff _).2 ha)]
    rfl
  · rw [rxByte_got (rest := a :: rest) h]
    simp only
    rw [if_neg (by exact noByteStatus_pos hm), if_pos (by exact hmd)]
    unfold unstuffSecond
    rw [rxByte_got (a := a) (rest := rest) rfl]
    simp only
    rw [if_pos (by exact (noByteStatus_iff _).2 ha)]
    simp [heard, lastStatus, rxEvents]

/-- A retry of Phase 4 is a symbol that brings no byte, and its last status is 0. -/
theorem Retry.broken {r : Retry} (h : r.ok = true) : BrokenSymbol r.answers ∧ lastStatus r.answers = 0 := by
  rcases r with ⟨_ | m, z⟩ <;>
    simp only [Retry.ok, Option.all_none, Option.all_some, Bool.and_eq_true, decide_eq_true_eq, beq_iff_eq,
      and_true] at h
  · exact ⟨.inl ⟨z, rfl, by omega⟩, noData_status h⟩
  · exact ⟨.inr ⟨m, z, rfl, h.2.1, h.2.2, by omega⟩, noData_status h.1⟩

/-- s after n retries with these events, each slept and each one unit of BUDGET. -/
def retried (s : State) (n : Nat) (new : List Event) (rest : List RxAnswer) : State :=
  { s with
    rxAnswers := rest, lastIoStatus := if n = 0 then s.lastIoStatus else 0, events := s.events ++ new,
    pos := .start, budget := s.budget - BitVec.ofNat 16 n, sleepAnswers := s.sleepAnswers - n }

theorem sub_one_sub_ofNat (x : BitVec 16) (n : Nat) : x - 1 - BitVec.ofNat 16 n = x - BitVec.ofNat 16 (n + 1) := by
  rw [BitVec.sub_sub]
  congr 1
  apply BitVec.eq_of_toNat_eq
  simp
  omega

theorem retried_zero {s : State} {rest : List RxAnswer} (hp : s.pos = .start) (h : s.rxAnswers = rest) :
    retried s 0 [] rest = s := by
  cases s
  simp_all [retried]

/-- A retry more in front. -/
theorem retried_succ {s u : State} {n : Nat} {first new : List Event} {rest : List RxAnswer} {m : Nat}
    (hm : s.sleepAnswers = m + 1)
    (hu : u = { s with
      rxAnswers := u.rxAnswers, lastIoStatus := 0, events := s.events ++ first, pos := .start, budget := s.budget - 1,
      sleepAnswers := m }) :
    retried u n new rest = retried s (n + 1) (first ++ new) rest := by
  rw [hu]
  have e2 : m - n = s.sleepAnswers - (n + 1) := by omega
  simp [retried, e2]
  exact sub_one_sub_ofNat _ _

/-- The retries of Phase 1. -/
theorem rxP1Loop_retry (n : Nat) (s : State) (z rest : List RxAnswer) (hp : s.pos = .start) (hz : AllNoData z)
    (hs : z.length ≤ s.sleepAnswers) (h : s.rxAnswers = z ++ rest) :
    rxP1Loop (n + z.length) s = rxP1Loop n (retried s z.length (noDataEvents z) rest) := by
  induction z generalizing s with
  | nil => exact congrArg _ (retried_zero hp h).symm
  | cons a z ih =>
    have ha := noData_status (hz a (by simp))
    simp only [List.length_cons] at hs
    rw [show n + (a :: z).length = (n + z.length) + 1 by simp; omega]
    simp only [rxP1Loop]
    rw [rxByte_got (rest := z ++ rest) h]
    simp only
    rw [if_neg (by rw [errorStatus_iff]; simp [heard, ha]), if_pos (by simp [heard, ha])]
    obtain ⟨m, hm⟩ : ∃ m, s.sleepAnswers = m + 1 := ⟨s.sleepAnswers - 1, by omega⟩
    have : sleepOne (heard s (z ++ rest) a.status [.rx a] s.checksum) = .go
        { heard s (z ++ rest) a.status [.rx a] s.checksum with
          sleepAnswers := m, events := s.events ++ [.rx a] ++ [.sleep], pos := .start } := by
      unfold sleepOne
      simp only [heard, hm]
    rw [this]
    simp only [andThen]
    refine Eq.trans (ih _ rfl (fun x hx => hz x (by simp [hx])) ?_ rfl) (congrArg _ ?_)
    · show z.length ≤ m
      omega
    refine retried_succ (first := [.rx a, .sleep]) hm ?_
    simp [heard, spendBudget, ha]

/-- The retries of Phase 4. -/
theorem rxP4Loop_retry (n : Nat) (s : State) (z : List Retry) (rest : List RxAnswer) (hp : s.pos = .start)
    (hz : ∀ r ∈ z, r.ok) (hs : z.length ≤ s.sleepAnswers) (hb : z.length ≤ s.budget.toNat)
    (ho : s.offset.toNat < s.hdr.dataLen.toNat) (h : s.rxAnswers = retryAnswers z ++ rest) :
    rxP4Loop (n + z.length) s = rxP4Loop n (retried s z.length (retryEvents z) rest) := by
  induction z generalizing s with
  | nil => exact congrArg _ (retried_zero hp h).symm
  | cons r z ih =>
    obtain ⟨hr, hr0⟩ := Retry.broken (hz r (by simp))
    simp only [List.length_cons] at hb hs
    rw [show n + (r :: z).length = (n + z.length) + 1 by simp; omega]
    simp only [rxP4Loop]
    rw [if_pos ⟨ho, by omega⟩,
      unstuff_broken (rest := retryAnswers z ++ rest) hp hr (by rw [h]; simp [retryAnswers])]
    simp only
    rw [if_neg (by
      rw [errorStatus_iff]
      show ¬ (lastStatus r.answers).toInt < 0
      rw [hr0]
      simp)]
    obtain ⟨m, hm⟩ : ∃ m, s.sleepAnswers = m + 1 := ⟨s.sleepAnswers - 1, by omega⟩
    have : sleepOne (spendBudget
          (heard s (retryAnswers z ++ rest) (lastStatus r.answers) (rxEvents r.answers) s.checksum)) = .go
        { spendBudget (heard s (retryAnswers z ++ rest) 0 (rxEvents r.answers) s.checksum) with
          sleepAnswers := m, events := s.events ++ rxEvents r.answers ++ [.sleep], pos := .start } := by
      unfold sleepOne
      simp only [heard, hm, spendBudget, hr0]
    rw [this]
    simp only [andThen]
    have hb1 : (s.budget - 1).toNat = s.budget.toNat - 1 := by simp; omega
    refine Eq.trans (ih _ rfl (fun x hx => hz x (by simp [hx])) ?_ ?_ ?_ rfl) (congrArg _ ?_)
    · show z.length ≤ m
      omega
    · show z.length ≤ (s.budget - 1).toNat
      omega
    · exact ho
    refine retried_succ (first := rxEvents r.answers ++ [.sleep]) hm ?_
    simp [heard, spendBudget]

/-! ### Everything a read, a sleep, an un-stuff step can be -/

/-- t is s after reads and retries: BUF, OFFSET, HDR and every other field are as before. -/
def RxMoved (s t : State) : Prop :=
  ∃ r l sl e p b c, t = { s with
    rxAnswers := r, lastIoStatus := l, sleepAnswers := sl, events := e, pos := p, budget := b, checksum := c }

theorem RxMoved.trans {s t u : State} (h1 : RxMoved s t) (h2 : RxMoved t u) : RxMoved s u := by
  obtain ⟨_, _, _, _, _, _, _, rfl⟩ := h1
  obtain ⟨_, _, _, _, _, _, _, rfl⟩ := h2
  exact ⟨_, _, _, _, _, _, _, rfl⟩

theorem rxByte_cases (p : Pos) (s : State) :
    rxByte p s = .waits { s with pos := p } ∨
    ∃ d t, rxByte p s = .got d t ∧ RxMoved s t ∧ t.pos = .start ∧ t.budget = s.budget ∧ t.checksum = s.checksum := by
  unfold rxByte
  split
  · exact .inl rfl
  · exact .inr ⟨_, _, rfl, ⟨_, _, _, _, _, _, _, rfl⟩, rfl, rfl, rfl⟩

theorem sleepOne_cases (s : State) :
    sleepOne s = .stop { s with pos := .sleeping } ∨
    ∃ n e, sleepOne s = .go { s with sleepAnswers := n, events := e, pos := .start } := by
  unfold sleepOne
  split
  · exact .inl rfl
  · exact .inr ⟨_, _, rfl⟩

theorem unstuff_cases (s : State) (hp : s.pos = .start ∨ s.pos = .rxSecond) :
    (∃ t, unstuff s = .waits t ∧ RxMoved s t ∧ (t.pos = .start ∨ t.pos = .rxSecond) ∧ t.budget = s.budget ∧
      t.checksum = s.checksum) ∨
    ∃ v t, unstuff s = .got v t ∧ RxMoved s t ∧ t.pos = .start ∧ t.budget = s.budget := by
  have second : ∀ u, RxMoved s u → u.budget = s.budget → u.checksum = s.checksum →
      (∃ t, unstuffSecond u = .waits t ∧ RxMoved s t ∧ (t.pos = .start ∨ t.pos = .rxSecond) ∧
        t.budget = s.budget ∧ t.checksum = s.checksum) ∨
      ∃ v t, unstuffSecond u = .got v t ∧ RxMoved s t ∧ t.pos = .start ∧ t.budget = s.budget := by
    intro u hu hb hc
    unfold unstuffSecond
    rcases rxByte_cases .rxSecond u with h | ⟨d, t, h, h1, h2, h3, h4⟩
    · rw [h]
      exact .inl ⟨_, rfl, hu.trans ⟨_, _, _, _, _, _, _, rfl⟩, .inr rfl, hb, hc⟩
    · rw [h]
      simp only
      split
      · exact .inr ⟨_, _, rfl, hu.trans h1, h2, h3.trans hb⟩
      · exact .inr ⟨_, _, rfl, (hu.trans h1).trans ⟨_, _, _, _, _, _, _, rfl⟩, h2, h3.trans hb⟩
  rcases hp with hp | hp
  · rw [unstuff_start hp]
    unfold unstuffFirst
    rcases rxByte_cases .start s with h | ⟨d, t, h, h1, h2, h3, h4⟩
    · rw [h]
      exact .inl ⟨_, rfl, ⟨_, _, _, _, _, _, _, rfl⟩, .inl rfl, rfl, rfl⟩
    · rw [h]
      simp only
      split
      · exact .inr ⟨_, _, rfl, h1, h2, h3⟩
      · split
        · exact second t h1 h3 h4
        · exact .inr ⟨_, _, rfl, h1.trans ⟨_, _, _, _, _, _, _, rfl⟩, h2, h3⟩
  · have : unstuff s = unstuffSecond s := by simp [unstuff, hp]
    rw [this]
    exact second s ⟨_, _, _, _, _, _, _, rfl⟩ rfl rfl

end Sys2Proof.Machine
end

