-- ==== Sys2Proof/Laws/Step.lean ====
section
/-! SUPPORT. The step, case by case, and its inversion. -/

namespace Sys2Proof.Machine

theorem step_reset {s : State} (h : s.resetInput = true) : step s = .next (applyReset s) := by
  unfold step fetch
  rw [if_pos h]

theorem step_busy {s : State} (hr : s.resetInput = false) (hb : s.busy = true) : step s = outcome (resume s) := by
  unfold step fetch
  rw [if_neg (by simp [hr]), if_pos hb]

theorem fetch_idle {s : State} (hr : s.resetInput = false) (hb : s.busy = false) : fetch s = takeHostMove s := by
  unfold fetch
  rw [if_neg (by simp [hr]), if_neg (by simp [hb])]

theorem step_nothing {s : State} (hr : s.resetInput = false) (hb : s.busy = false) (hh : s.host = []) :
    step s = .next s := by
  unfold step
  rw [fetch_idle hr hb]
  unfold takeHostMove
  rw [hh]

theorem step_writeBuf {s : State} {a : BitVec 16} {v : Byte} {rest : List HostMove} (hr : s.resetInput = false)
    (hb : s.busy = false) (hh : s.host = .writeBuf a v :: rest) :
    step s = outcome (memWrite a.toNat v { s with host := rest }) := by
  unfold step
  rw [fetch_idle hr hb]
  unfold takeHostMove
  rw [hh]

theorem step_refused {s : State} {cw : CommandWord} {rest : List HostMove} (hr : s.resetInput = false)
    (hb : s.busy = false) (hh : s.host = .command cw :: rest) (hf : s.fault ≠ .noFault) : step s = .next s := by
  unfold step
  rw [fetch_idle hr hb]
  unfold takeHostMove
  rw [hh]
  simp only [takeCommand, if_pos hf]

theorem step_illegal {s : State} {cw : CommandWord} {rest : List HostMove} {e : Illegal} (hr : s.resetInput = false)
    (hb : s.busy = false) (hh : s.host = .command cw :: rest) (hf : s.fault = .noFault) (hd : decodeFor s.cfg cw = .error e) :
    step s = .next (raiseFault .illegalOp { s with host := rest }) := by
  unfold step
  rw [fetch_idle hr hb]
  unfold takeHostMove
  rw [hh]
  simp only [takeCommand, hd, if_neg (not_not.2 hf)]

theorem step_run {s : State} {cw : CommandWord} {rest : List HostMove} {i : Instr} (hr : s.resetInput = false)
    (hb : s.busy = false) (hh : s.host = .command cw :: rest) (hf : s.fault = .noFault) (hd : decodeFor s.cfg cw = .ok i) :
    step s = exec i { s with host := rest } := by
  unfold step
  rw [fetch_idle hr hb]
  unfold takeHostMove
  rw [hh]
  simp only [takeCommand, hd, if_neg (not_not.2 hf)]

/-- Everything a step can be. -/
theorem step_cases (s : State) :
    (s.resetInput = true ∧ step s = .next (applyReset s)) ∨
    (s.resetInput = false ∧ s.busy = true ∧ step s = outcome (resume s)) ∨
    (s.resetInput = false ∧ s.busy = false ∧ step s = .next s ∧
      (s.host = [] ∨ (s.fault ≠ .noFault ∧ ∃ cw rest, s.host = .command cw :: rest))) ∨
    (s.resetInput = false ∧ s.busy = false ∧ ∃ a v rest, s.host = .writeBuf a v :: rest ∧
      step s = outcome (memWrite a.toNat v { s with host := rest })) ∨
    (s.resetInput = false ∧ s.busy = false ∧ s.fault = .noFault ∧ ∃ cw rest e, s.host = .command cw :: rest ∧
      decodeFor s.cfg cw = .error e ∧ step s = .next (raiseFault .illegalOp { s with host := rest })) ∨
    (s.resetInput = false ∧ s.busy = false ∧ s.fault = .noFault ∧ ∃ cw rest i, s.host = .command cw :: rest ∧
      decodeFor s.cfg cw = .ok i ∧ step s = exec i { s with host := rest }) := by
  by_cases hr : s.resetInput = true
  · exact .inl ⟨hr, step_reset hr⟩
  have hr := Bool.eq_false_iff.2 hr
  by_cases hb : s.busy = true
  · exact .inr (.inl ⟨hr, hb, step_busy hr hb⟩)
  have hb := Bool.eq_false_iff.2 hb
  refine .inr (.inr ?_)
  rcases hh : s.host with _ | ⟨cw | ⟨a, v⟩, rest⟩
  · exact .inl ⟨hr, hb, step_nothing hr hb hh, .inl rfl⟩
  · by_cases hf : s.fault = .noFault
    · rcases hd : decodeFor s.cfg cw with e | i
      · exact .inr (.inr (.inl ⟨hr, hb, hf, cw, rest, e, rfl, hd, step_illegal hr hb hh hf hd⟩))
      · exact .inr (.inr (.inr ⟨hr, hb, hf, cw, rest, i, rfl, hd, step_run hr hb hh hf hd⟩))
    · exact .inl ⟨hr, hb, step_refused hr hb hh hf, .inr ⟨hf, cw, rest, rfl⟩⟩
  · exact .inr (.inl ⟨hr, hb, a, v, rest, rfl, step_writeBuf hr hb hh⟩)

/-- Everything the next state of a step can be. -/
theorem step_next (s t : State) (h : step s = .next t) :
    (s.resetInput = true ∧ t = applyReset s) ∨
    (s.resetInput = false ∧ s.busy = true ∧ Evolves s t) ∨
    (s.resetInput = false ∧ s.busy = false ∧
      (t = s ∨
        (∃ a v rest, s.host = .writeBuf a v :: rest ∧ a.toNat < s.cfg.capacity ∧
          t = setByte a.toNat v { s with host := rest }) ∨
        (∃ cw rest e, s.host = .command cw :: rest ∧ s.fault = .noFault ∧ decodeFor s.cfg cw = .error e ∧
          t = raiseFault .illegalOp { s with host := rest }) ∨
        (∃ cw rest i, s.host = .command cw :: rest ∧ s.fault = .noFault ∧ decodeFor s.cfg cw = .ok i ∧
          exec i { s with host := rest } = .next t))) := by
  rcases step_cases s with ⟨h1, h2⟩ | ⟨h1, h2, h3⟩ | ⟨h1, h2, h3, _⟩ |
    ⟨h1, h2, a, v, rest, h3, h4⟩ |
    ⟨h1, h2, h3, cw, rest, e, h4, h5, h6⟩ | ⟨h1, h2, h3, cw, rest, i, h4, h5, h6⟩
  · rw [h] at h2; cases h2; exact .inl ⟨h1, rfl⟩
  · rw [h] at h3; exact .inr (.inl ⟨h1, h2, (leads_resume s).next h3.symm⟩)
  · rw [h] at h3; cases h3; exact .inr (.inr ⟨h1, h2, .inl rfl⟩)
  · rw [h] at h4
    rcases memWrite_cases a.toNat v { s with host := rest } with ⟨hc, he⟩ | ⟨hc, he⟩
    · rw [he] at h4; cases h4; exact .inr (.inr ⟨h1, h2, .inr (.inl ⟨a, v, rest, h3, hc, rfl⟩)⟩)
    · rw [he] at h4; cases h4
  · rw [h] at h6; cases h6; exact .inr (.inr ⟨h1, h2, .inr (.inr (.inl ⟨cw, rest, e, h4, h3, h5, rfl⟩))⟩)
  · rw [h] at h6; exact .inr (.inr ⟨h1, h2, .inr (.inr (.inr ⟨cw, rest, i, h4, h3, h5, h6.symm⟩))⟩)

end Sys2Proof.Machine
end

