-- ==== Sys2Proof/Laws/Writer.lean ====
section
/-! SUPPORT. The serializer: the guard of an append, the bytes of a value, the COPY loop, and faults raised by an operation
accepted from an idle state. -/

namespace Sys2Proof.Machine

theorem guardAppend_misuse {n : Nat} {s : State} {k : State → Flow} (h : s.mode ≠ .build) :
    guardAppend n s k = .stop (raiseFault .misuse s) := if_pos h

theorem guardAppend_overrun {n : Nat} {s : State} {k : State → Flow} (h : s.mode = .build)
    (hc : s.cfg.capacity < s.offset.toNat + n) : guardAppend n s k = .stop (raiseFault .bufferOverrun s) := by
  unfold guardAppend
  rw [if_neg (not_not.2 h), if_pos hc]

theorem guardAppend_fits {n : Nat} {s : State} {k : State → Flow} (h : s.mode = .build)
    (hc : s.offset.toNat + n ≤ s.cfg.capacity) : guardAppend n s k = k s := by
  unfold guardAppend
  rw [if_neg (not_not.2 h), if_neg (by omega)]

/-- A fault raised by an operation accepted from an idle state: FAULT and MODE are all that changes. -/
theorem raiseFault_accept {p : Phase} {f : FaultCode} {s : State} (hi : Idle s) (hf : s.fault = .noFault) :
    raiseFault f (accept p s) = { s with fault := f, mode := .invalid } := by
  obtain ⟨h1, h2, h3, h4, h5⟩ := hi
  cases s
  simp_all [raiseFault, endOperation, accept]

theorem bytesMsbFirst_length {w : Nat} (v : BitVec w) (n : Nat) : (bytesMsbFirst v n).length = n := by
  induction n with
  | zero => rfl
  | succ n ih => rw [bytesMsbFirst, List.length_cons, ih]

@[simp] theorem serialize_length {w : Nat} (o : ByteOrder) (n : Nat) (v : BitVec w) :
    (serialize o n v).length = n := by
  cases o <;> simp [serialize, bytesMsbFirst_length]

/-- The bytes of a value as a list of its slices, the highest first. -/
theorem bytesMsbFirst_eq {w : Nat} (v : BitVec w) (n : Nat) :
    bytesMsbFirst v n = (List.range n).reverse.map fun k => byteAt k v := by
  induction n with
  | zero => rfl
  | succ n ih =>
    rw [bytesMsbFirst, ih, List.range_succ]
    simp

/-- What a value is appended as: its slices in the order of BYTE_ORDER. -/
theorem serialize_eq_inOrder {w : Nat} (c : Config) (n : Nat) (v : BitVec w) :
    serialize c.byteOrder n v = inOrder c ((List.range n).reverse.map fun k => v.extractLsb' (8 * k) 8) := by
  unfold serialize inOrder
  cases c.byteOrder <;> simp [bytesMsbFirst_eq, byteAt]

@[simp] theorem inOrder_length (c : Config) (l : List Byte) : (inOrder c l).length = l.length := by
  unfold inOrder
  split <;> simp

/-- A writer operation whose data is there appends as many bytes as its operand is wide. -/
theorem appendedBytes_length (c : Config) (i : Instr) (data : List Byte) (hw : isWriter i = true)
    (h : i.dataCount ≤ data.length) : (appendedBytes c i data).length = encodedWidth c i := by
  cases i <;> simp_all [appendedBytes, encodedWidth, isWriter, Instr.dataCount]

/-- The COPY loop with its data there: the bytes stand from OFFSET + IDX upward, the append ends. -/
theorem copyLoop_eq (n : Nat) (s : State) (e rest : List Byte) (he : e.length = n) (hd : s.dataPort = e ++ rest)
    (hc : s.offset.toNat + s.idx.toNat + n ≤ s.cfg.capacity) (hi : s.idx.toNat + n < 65536) :
    ∃ m i, copyLoop n s = .stop (endAppend s.copyLength.toNat { s with buf := m, dataPort := rest, idx := i }) ∧
      (∀ k (hk : k < e.length), Memory.find m (s.offset.toNat + s.idx.toNat + k) = some e[k]) ∧
      (∀ b, b < s.offset.toNat + s.idx.toNat ∨ s.offset.toNat + s.idx.toNat + n ≤ b →
        Memory.find m b = Memory.find s.buf b) := by
  induction n generalizing s e with
  | zero =>
    obtain rfl := List.length_eq_zero_iff.1 he
    refine ⟨s.buf, s.idx, ?_, by simp, by simp⟩
    simp only [copyLoop]
    rw [List.nil_append] at hd
    rw [← hd]
  | succ n ih =>
    cases e with
    | nil => simp at he
    | cons b e =>
      have hx : (s.idx + 1).toNat = s.idx.toNat + 1 := by simp; omega
      obtain ⟨m, i, h1, h2, h3⟩ := ih
        { setByte (s.offset.toNat + s.idx.toNat) b { s with dataPort := e ++ rest } with idx := s.idx + 1 } e
        (by simpa using he) rfl (by simp only [hx, setByte_offset, setByte_cfg]; omega) (by simp only [hx]; omega)
      simp only [setByte_offset, hx] at h2 h3
      refine ⟨m, i, ?_, ?_, ?_⟩
      · simp only [copyLoop, hd, List.cons_append]
        rw [memWrite_eq _ _ _ (by dsimp only; omega)]
        simp only [andThen, setByte_idx]
        rw [h1]
        rfl
      · intro k hk
        cases k with
        | zero =>
          rw [Nat.add_zero, h3 _ (by omega)]
          exact Memory.find_put_same _ _ _
        | succ k =>
          have := h2 k (by simpa using hk)
          rw [← Nat.add_assoc, Nat.add_right_comm] at this
          simpa [Nat.add_assoc, Nat.add_comm 1 k] using this
      · intro x hx
        rw [h3 x (by omega)]
        exact Memory.find_put_other _ _ _ _ (by omega)

/-- The COPY loop with too few bytes: it takes them all and waits, IDX counting them. -/
theorem copyLoop_waits (n : Nat) (s : State) (hd : s.dataPort.length < n)
    (hc : s.offset.toNat + s.idx.toNat + n ≤ s.cfg.capacity) (hi : s.idx.toNat + n < 65536) :
    ∃ m, copyLoop n s =
        .stop { s with buf := m, dataPort := [], idx := s.idx + BitVec.ofNat 16 s.dataPort.length } ∧
      (∀ k (hk : k < s.dataPort.length),
        Memory.find m (s.offset.toNat + s.idx.toNat + k) = some s.dataPort[k]) ∧
      (∀ b, b < s.offset.toNat + s.idx.toNat ∨ s.offset.toNat + s.idx.toNat + n ≤ b →
        Memory.find m b = Memory.find s.buf b) := by
  induction n generalizing s with
  | zero => simp at hd
  | succ n ih =>
    rcases hp : s.dataPort with _ | ⟨b, e⟩
    · refine ⟨s.buf, ?_, by simp, by simp⟩
      simp only [copyLoop, hp]
      have : s.idx + BitVec.ofNat 16 ([] : List Byte).length = s.idx := by simp
      rw [this, ← hp]
    · have hx : (s.idx + 1).toNat = s.idx.toNat + 1 := by simp; omega
      rw [hp] at hd
      obtain ⟨m, h1, h2, h3⟩ := ih
        { setByte (s.offset.toNat + s.idx.toNat) b { s with dataPort := e } with idx := s.idx + 1 }
        (by simpa using hd) (by simp only [hx, setByte_offset, setByte_cfg]; omega) (by simp only [hx]; omega)
      simp only [setByte_offset, hx, setByte_dataPort] at h2 h3
      refine ⟨m, ?_, ?_, ?_⟩
      · simp only [copyLoop, hp]
        rw [memWrite_eq _ _ _ (by dsimp only; omega)]
        simp only [andThen, setByte_idx]
        rw [h1]
        have : s.idx + 1 + BitVec.ofNat 16 e.length = s.idx + BitVec.ofNat 16 (b :: e).length := by
          rw [List.length_cons, BitVec.add_assoc]
          congr 1
          apply BitVec.eq_of_toNat_eq
          simp
          omega
        rw [← this]
        rfl
      · intro k hk
        cases k with
        | zero =>
          rw [Nat.add_zero, h3 _ (by omega)]
          exact Memory.find_put_same _ _ _
        | succ k =>
          have := h2 k (by simpa using hk)
          rw [← Nat.add_assoc, Nat.add_right_comm] at this
          simpa [Nat.add_assoc, Nat.add_comm 1 k] using this
      · intro x hx
        rw [h3 x (by omega)]
        exact Memory.find_put_other _ _ _ _ (by omega)

end Sys2Proof.Machine
end

