-- ==== Sys2Proof/Tests/Slice0.lean ====
section
/-! SUPPORT. The model's own tests: the well-formedness checks, the decoder on words of the spec, single steps on the
vectors of 95_test_vectors.md, and for every obligation with hypotheses a witness that meets them. -/

namespace Sys2Proof.Tests

open Sys2Proof Sys2Proof.Machine

/-! ### Well-formedness: each check refuses an ill-formed term -/

theorem test_config_reference_wf : Config.reference.wf = true := by decide
theorem test_config_capacity_2_refused : { Config.reference with capacity := 2 }.wf = false := by decide
theorem test_config_capacity_65536_refused : { Config.reference with capacity := 65536 }.wf = false := by decide
theorem test_config_code_0_refused :
    { Config.reference with errorCodes := { ErrorCodes.reference with missingStop := 0 } }.wf = false := by decide
theorem test_config_equal_codes_refused :
    { Config.reference with errorCodes := { ErrorCodes.reference with missingStop := -3 } }.wf = false := by decide
theorem test_config_offset_width_refused : { Config.reference with offsetW := 8 }.wf = false := by decide
theorem test_config_offset_width_9_wf : { Config.reference with offsetW := 9 }.wf = true := by decide
theorem test_config_float_width_0_refused : { Config.reference with floatW := 0 }.wf = false := by decide
theorem test_config_status_width_17_refused : { Config.reference with statusW := 17 }.wf = false := by decide
/-- Three bits hold -4 to 3, so not the code -7. -/
theorem test_config_status_width_3_refused : { Config.reference with statusW := 3 }.wf = false := by decide
theorem test_config_status_width_4_wf : { Config.reference with statusW := 4 }.wf = true := by decide
theorem test_config_max_payload_256_refused : { Config.reference with maxPayload := 256 }.wf = false := by decide
theorem test_instr_wf :
    (Instr.addBytes 0xFFFF).wf .reference = true ∧ (Instr.readResponse 0xFF 0xFFFF).wf .reference = true := by decide
theorem test_instr_length_beyond_width_refused :
    (Instr.addBytes 2).wf { Config.reference with lenW := 1 } = false := by decide
theorem test_instr_expected_length_beyond_width_refused :
    (Instr.readResponse 4 0).wf { Config.reference with expLenW := 2 } = false := by decide
theorem test_instr_timeout_beyond_width_refused :
    (Instr.readResponse 0 64).wf { Config.reference with timeoutW := 6 } = false := by decide
theorem test_issue_wf : Issue.wf ⟨.addBytes 2, [0x7E, 0x00]⟩ = true := by decide
theorem test_issue_short_data_refused : Issue.wf ⟨.addBytes 2, [0x7E]⟩ = false := by decide
theorem test_issue_surplus_data_refused : Issue.wf ⟨.writeRequest, [0x7E]⟩ = false := by decide

/-! ### The decoder: words written out from R55 to R57, op ++ zero ++ arg -/

theorem test_decode_add_u8 : decode (0x1#4 ++ 0#4 ++ 0#24 ++ 0x7E#8) = .ok (.addU8 0x7E) := by decide
theorem test_decode_add_bool : decode (0x2#4 ++ 0#4 ++ 0#31 ++ 1#1) = .ok (.addBool 1) := by decide
theorem test_decode_add_u16 : decode (0x3#4 ++ 0#4 ++ 0#16 ++ 0x1234#16) = .ok (.addU16 0x1234) := by decide
theorem test_decode_add_i16 : decode (0x4#4 ++ 0#4 ++ 0#16 ++ 0x8000#16) = .ok (.addI16 0x8000) := by decide
theorem test_decode_add_u32 : decode (0x5#4 ++ 0#4 ++ 0x11137D7E#32) = .ok (.addU32 0x11137D7E) := by decide
theorem test_decode_add_i32 : decode (0x6#4 ++ 0#4 ++ 0x80000000#32) = .ok (.addI32 0x80000000) := by decide
theorem test_decode_add_float : decode (0x7#4 ++ 0#4 ++ 0x7FC00001#32) = .ok (.addFloat 0x7FC00001) := by decide
theorem test_decode_add_bytes : decode (0x8#4 ++ 0#4 ++ 0#16 ++ 0x0002#16) = .ok (.addBytes 2) := by decide
/-- V49: data_length in arg[23:16], address in arg[15:8], command in arg[7:0]. -/
theorem test_decode_begin_stream :
    decode (0x9#4 ++ 0#4 ++ 0#8 ++ 0x14#8 ++ 0x00#8 ++ 0x21#8) = .ok (.beginStream 0x21 0x00 0x14) := by decide
theorem test_decode_write_request : decode (0xA#4 ++ 0#4 ++ 0#32) = .ok .writeRequest := by decide
/-- V50: max_timeout_ms in arg[23:8], expected_data_length in arg[7:0]. -/
theorem test_decode_read_response :
    decode (0xB#4 ++ 0#4 ++ 0#8 ++ 0x0064#16 ++ 0x03#8) = .ok (.readResponse 3 100) := by decide
/-- V45, V46. -/
theorem test_decode_reserved_op_refused :
    decode 0x0000000000 = .error (.reservedOp 0) ∧ decode 0xC000000000 = .error (.reservedOp 0xC) ∧
    decode 0xF000000000 = .error (.reservedOp 0xF) := by decide
/-- V47. -/
theorem test_decode_zero_field_refused : decode 0x1100000001 = .error (.zeroField 1) := by decide
/-- V48. -/
theorem test_decode_unused_bit_refused :
    decode 0x1000000100 = .error (.unusedBits 1) ∧ decode 0x2000000002 = .error (.unusedBits 2) ∧
    decode 0xA000000001 = .error (.unusedBits 0xA) ∧ decode 0x9001000000 = .error (.unusedBits 9) ∧
    decode 0xB001000000 = .error (.unusedBits 0xB) := by decide
theorem test_encode_begin_stream : encode (.beginStream 0x21 0x00 0x14) = 0x9000140021 := by decide

/-! ### Single steps -/

/-- After `begin_stream 0, 0, n`, with a command word on the port. -/
def build (n : Byte) (cw : CommandWord) : State :=
  { State.reset with buf := [(0, 0x00), (1, 0x00), (2, n)], offset := 3, mode := .build, host := [.command cw] }

/-- BUF and OFFSET after one step. -/
def bufAfter (s : State) : Option (Memory × BitVec 16) := (nextState (step s)).map fun t => (t.buf.drop 3, t.offset)

/-- RESULT, MODE, FAULT and BUSY after one step. -/
def endAfter (s : State) : Option (Status × Mode × FaultCode × Bool) :=
  (nextState (step s)).map fun t => (t.result, t.mode, t.fault, t.busy)

/-- V1. -/
theorem test_add_u8 : bufAfter (build 0 0x100000007E) = some ([(3, 0x7E)], 4) := by decide
/-- V2. -/
theorem test_add_bool : bufAfter (build 0 0x2000000001) = some ([(3, 0x01)], 4) := by decide
/-- V3. -/
theorem test_add_u16 : bufAfter (build 0 0x3000001234) = some ([(3, 0x12), (4, 0x34)], 5) := by decide
/-- The note under V10: with BYTE_ORDER = little V3 gives 34 12. -/
theorem test_add_u16_little :
    bufAfter { build 0 0x3000001234 with cfg := { Config.reference with byteOrder := .little } } =
      some ([(3, 0x34), (4, 0x12)], 5) := by decide
/-- V4. -/
theorem test_add_i16 : bufAfter (build 0 0x400000FFFE) = some ([(3, 0xFF), (4, 0xFE)], 5) := by decide
/-- V5. -/
theorem test_add_u32 :
    bufAfter (build 0 0x5011137D7E) = some ([(3, 0x11), (4, 0x13), (5, 0x7D), (6, 0x7E)], 7) := by decide
/-- V6. -/
theorem test_add_i32 :
    bufAfter (build 0 0x60FFFFFFFE) = some ([(3, 0xFF), (4, 0xFF), (5, 0xFF), (6, 0xFE)], 7) := by decide
/-- V7. -/
theorem test_add_float :
    bufAfter (build 0 0x707FC00001) = some ([(3, 0x7F), (4, 0xC0), (5, 0x00), (6, 0x01)], 7) := by decide
/-- R70 with FLOAT_W = 2. -/
theorem test_add_float_narrow :
    bufAfter { build 0 0x707FC00001 with cfg := { Config.reference with floatW := 2 } } =
      some ([(3, 0x00), (4, 0x01)], 5) := by decide
/-- V8. -/
theorem test_add_bytes :
    bufAfter { build 0 0x8000000002 with dataPort := [0x7E, 0x00] } = some ([(3, 0x7E), (4, 0x00)], 5) := by decide
/-- V9 b. -/
theorem test_append_overrun :
    let s := { build 0 0x300000BEEF with offset := 257 }
    bufAfter s = some ([], 257) ∧ endAfter s = some (0, .invalid, .bufferOverrun, false) := by decide
/-- V10. -/
theorem test_append_misuse :
    endAfter { State.reset with host := [.command 0x1000000001] } = some (0, .invalid, .misuse, false) := by decide
/-- V13. -/
theorem test_begin_stream :
    (nextState (step { State.reset with host := [.command 0x90000000D3], checksum := 0x5A, mode := .invalid })).map
      (fun t => (t.buf, t.offset, t.checksum, t.mode)) =
    some ([(0, 0x00), (1, 0xD3), (2, 0x00)], 3, 0x00, .build) := by decide
/-- V21, first request: the wire of a zero-length request. -/
theorem test_write_request :
    (nextState (step { build 0 0xA000000000 with txAnswers := List.replicate 6 1 })).map
      (fun t => (wireOutput t.events, t.result, t.mode, t.checksum)) =
    some ([0x7E, 0x00, 0x00, 0x00, 0xFF, 0x7E], 0, .sent, 0xFF) := by decide
/-- V18 a. -/
theorem test_write_request_length_mismatch :
    endAfter { build 2 0xA000000000 with offset := 4 } = some (-1, .invalid, .noFault, false) := by decide
/-- V19, the refused second byte of an escaped symbol. -/
theorem test_stuff_refused :
    (match stuffAndWrite 0x11 { State.reset with checksum := 0x02, txAnswers := [1, 0, 1] } with
      | .stop t => some (wireOutput t.events, t.result, t.checksum, t.txAnswers)
      | .go _ => none
      | .bad _ => none) = some ([0x7D], -2, 0x13, [1]) := by decide

/-- Positive answers with these bytes. -/
def arriving (bytes : List Byte) : List RxAnswer := bytes.map fun b => ⟨1, b⟩

/-- The no-data answer. -/
def noData : RxAnswer := ⟨0, 0⟩

/-- V23. -/
theorem test_read_response :
    (nextState (step { State.reset with
      host := [.command 0xB000000A00], rxAnswers := arriving [0x7E, 0, 0, 0, 0, 0xFF, 0x7E] })).map
      (fun t => (t.result, t.mode, t.checksum, t.budget)) = some (0, .received, 0xFF, 10) := by decide
/-- V40 c. -/
theorem test_read_response_execution_failure :
    (nextState (step { State.reset with
      host := [.command 0xB000000500], rxAnswers := arriving [0x7E, 0, 0, 0xC3, 0, 0x3C, 0x7E] })).map
      (fun t => (t.result, t.mode, t.hdr.state, t.rxAnswers.length)) = some (-7, .invalid, 0xC3, 1) := by decide
/-- V22: 7D 5E from CHECKSUM = 10, and 7D then no data. -/
theorem test_unstuff :
    (match unstuff { State.reset with checksum := 0x10, rxAnswers := arriving [0x7D, 0x5E] } with
      | .got v t => some (v, t.checksum)
      | .waits _ => none) = some (some 0x7E, 0x8E) ∧
    (match unstuff { State.reset with checksum := 0x10, rxAnswers := arriving [0x7D] ++ [noData] } with
      | .got v t => some (v, t.checksum)
      | .waits _ => none) = some (none, 0x10) := by decide
/-- R50 on a stream: an escape, a lost marker, a raw reserved byte, an escaped value that is not reserved. -/
theorem test_unstuffed_bytes :
    unstuffedBytes (arriving [0x7D, 0x5E, 0x7D] ++ [noData] ++ arriving [0x31, 0x11, 0x7D, 0x00]) =
      [0x7E, 0x31, 0x11, 0x20] := by decide
/-- U6: the host reads BUF between operations only. -/
theorem test_host_read :
    hostRead 2 (build 9 0) = some 9 ∧ hostRead 258 (build 9 0) = none ∧
      hostRead 2 { build 9 0 with busy := true } = none := by decide
/-- V12. -/
theorem test_symbol :
    stuffed [0x11, 0x13, 0x7D, 0x7E, 0x10, 0x5E] =
      [0x7D, 0x31, 0x7D, 0x33, 0x7D, 0x5D, 0x7D, 0x5E, 0x10, 0x5E] := by decide
/-- V16: the whole frame. -/
theorem test_frame :
    frameOf [0x11, 0x7E, 0x04, 0x11, 0x13, 0x7D, 0x7E] =
      [0x7E, 0x7D, 0x31, 0x7D, 0x5E, 0x04, 0x7D, 0x31, 0x7D, 0x33, 0x7D, 0x5D, 0x7D, 0x5E, 0x4D, 0x7E] := by decide
/-- R29: the status outputs at reset, the header outputs left out. -/
theorem test_status_outputs_at_reset :
    { statusOutputs State.reset with hdr := [] } = ⟨0, 0, 0, 0, [], 0, 0, 0, 0⟩ := by decide
/-- The host's reading of a table word runs as the first operation after reset: `begin_stream 0, 0, 0`. -/
theorem test_with_fetch_word :
    endAfter (State.reset.withFetchWord 40 0x9000000000) = some (0, .build, .noFault, false) ∧
    decodeTableWord 40 0x9000000000 = some (.beginStream 0 0 0) := by decide

/-- The first word of every row of opcode_table.json, in its order. -/
def rowWords : List Nat :=
  [0x1000000000, 0x2000000000, 0x3000000000, 0x4000000000, 0x5000000000, 0x6000000000, 0x7000000000, 0x8000000000,
    0x9000000000, 0xA000000000, 0xB000000000]

/-- Every row's word decodes, and step takes it as the first operation after reset. -/
theorem test_every_row_runs :
    rowWords.all (fun w => (decodeTableWord 40 w).isSome &&
      (nextState (step (State.reset.withFetchWord 40 w))).isSome) = true := by decide

/-! ### Witnesses: each obligation's hypotheses can be met -/

/-- The reset state with these answers of the receive side. -/
def listening (rx : List RxAnswer) (sleeps : Nat) : State :=
  { State.reset with rxAnswers := rx, sleepAnswers := sleeps }

/-- A `read_response` that waits in Phase 1. -/
def waiting : State := { State.reset with busy := true, phase := .rxP1, io := .reader, budget := 5, explen := 3 }

/-- The symbol of a byte as it arrives when the sensor stuffs it (R49). -/
def received (b : Byte) : RxSymbol := ⟨arriving (symbol b), b⟩

/-- The opening of V27, with one no-data answer before it. -/
def opening : Opening :=
  ⟨[noData], ⟨1, 0x7E⟩, [received 0x00, received 0xD1, received 0x00, received 0x03], ⟨0x00, 0xD1, 0x00, 0x03⟩⟩

/-- The payload of V27, a no-data answer before its second symbol. -/
def payload : List Arrival := [⟨[], received 0x7E⟩, ⟨[⟨none, noData⟩], received 0x11⟩, ⟨[], received 0x42⟩]

/-- The forms of V42 that R50 reads and R49 does not make, as a payload: a raw 7E, a raw 11, and 7D 00. -/
def lenient : List Arrival :=
  [⟨[], ⟨arriving [0x7E], 0x7E⟩⟩, ⟨[], ⟨arriving [0x11], 0x11⟩⟩, ⟨[], ⟨arriving [0x7D, 0x00], 0x20⟩⟩]

theorem witness_EncodeInvertsDecode : decode 0xB000006403 = .ok (.readResponse 3 100) := by decide

theorem witness_IllegalWordRaisesIllegalOp :
    let s := { State.reset with host := [.command 0x1100000001] }
    Ready s ∧ s.host = .command 0x1100000001 :: [] ∧ IllegalWord 0x1100000001 := by
  unfold IllegalWord
  decide

theorem witness_StepRunsDecodedOperation :
    let s := build 0 0x1000000055
    Ready s ∧ s.host = .command 0x1000000055 :: [] ∧ decode 0x1000000055 = .ok (.addU8 0x55) ∧
      (Instr.addU8 0x55).wf s.cfg = true ∧ s.cfg.lenW = 16 ∧ s.cfg.expLenW = 8 ∧ s.cfg.timeoutW = 16 := by decide

theorem witness_HeldFaultStaysUntilReset :
    let s := { build 0 0x1000000055 with fault := .misuse, mode := .invalid }
    s.fault ≠ .noFault ∧ s.resetInput = false ∧ s.busy = false ∧ s.host = .command 0x1000000055 :: [] ∧
      step s = .next s := ⟨by decide, rfl, rfl, rfl, rfl⟩

theorem witness_OperandBeyondItsWidthIsIllegal :
    let s := { build 0 0x8000000002 with cfg := { Config.reference with lenW := 1 } }
    Ready s ∧ s.host = .command 0x8000000002 :: [] ∧ decode 0x8000000002 = .ok (.addBytes 2) ∧
      2 ^ s.cfg.lenW ≤ (2#16).toNat := by decide

theorem witness_OperandBeyondItsWidthIsIllegal_response :
    let s := { build 0 0xB000006403 with cfg := { Config.reference with expLenW := 2, timeoutW := 6 } }
    Ready s ∧ s.host = .command 0xB000006403 :: [] ∧ decode 0xB000006403 = .ok (.readResponse 3 100) ∧
      (3#8).toNat < 2 ^ s.cfg.expLenW ∧ 2 ^ s.cfg.timeoutW ≤ (100#16).toNat := by decide

theorem witness_BusyBlockTakesNoHostMove :
    waiting.busy = true ∧ waiting.resetInput = false ∧ step waiting = .next waiting := ⟨rfl, rfl, rfl⟩

theorem witness_ModeIsWrittenOnlyAtTheEnd :
    ∃ t, exec (.readResponse 3 5) State.reset = .next t ∧ t.busy = true := ⟨_, rfl, rfl⟩

theorem witness_HostWriteChangesOneByte :
    let s := { State.reset with host := [.writeBuf 257 0x55] }
    s.busy = false ∧ s.resetInput = false ∧ s.host = .writeBuf 257 0x55 :: [] ∧
      (257#16).toNat < s.cfg.capacity := by decide

theorem witness_HostWriteChangesOneByte_outside :
    let s := { State.reset with host := [.writeBuf 258 0x55] }
    s.busy = false ∧ s.resetInput = false ∧ s.host = .writeBuf 258 0x55 :: [] ∧
      s.cfg.capacity ≤ (258#16).toNat := by decide

theorem witness_ResetInputResetsTheBlock : { waiting with resetInput := true }.resetInput = true := rfl

theorem witness_IdleBlockWaits :
    State.reset.busy = false ∧ State.reset.resetInput = false ∧ State.reset.host = [] := by decide

theorem witness_AppendStep_misuse :
    Idle State.reset ∧ State.reset.fault = .noFault ∧ State.reset.mode ≠ .build := by decide

theorem witness_AppendStep_overrun :
    let s := { build 0 0 with offset := 258 }
    Idle s ∧ s.fault = .noFault ∧ s.mode = .build ∧ s.cfg.capacity < s.offset.toNat + [0x55#8].length := by decide

theorem witness_AppendStep_fits :
    let s := { build 0 0 with offset := 257 }
    Idle s ∧ s.fault = .noFault ∧ s.mode = .build ∧ s.offset.toNat + [0x55#8].length ≤ s.cfg.capacity := by decide

theorem witness_ByteAndBoolAppend :
    let s := { build 0 0 with offset := 257 }
    Idle s ∧ s.mode = .build ∧ s.offset.toNat + 1 ≤ s.cfg.capacity := by decide

theorem witness_SixteenBitAppend :
    let s := { build 0 0 with offset := 256 }
    Idle s ∧ s.mode = .build ∧ s.offset.toNat + 2 ≤ s.cfg.capacity ∧ s.cfg.byteOrder = .big := by decide

theorem witness_SixteenBitAppend_little :
    let s := { build 0 0 with offset := 256, cfg := { Config.reference with byteOrder := .little } }
    Idle s ∧ s.mode = .build ∧ s.offset.toNat + 2 ≤ s.cfg.capacity ∧ s.cfg.byteOrder = .little := by decide

theorem witness_ThirtyTwoBitAppend :
    let s := { build 0 0 with offset := 254 }
    Idle s ∧ s.mode = .build ∧ s.offset.toNat + 4 ≤ s.cfg.capacity ∧ s.cfg.byteOrder = .big := by decide

theorem witness_ThirtyTwoBitAppend_little :
    let s := { build 0 0 with offset := 254, cfg := { Config.reference with byteOrder := .little } }
    Idle s ∧ s.mode = .build ∧ s.offset.toNat + 4 ≤ s.cfg.capacity ∧ s.cfg.byteOrder = .little := by decide

theorem witness_FloatAppend :
    let s := { build 0 0 with offset := 254 }
    Idle s ∧ s.mode = .build ∧ s.offset.toNat + s.cfg.floatW ≤ s.cfg.capacity ∧ s.cfg.floatW = 4 := by decide

theorem witness_FloatAppend_wide :
    let s := { build 0 0 with offset := 250, cfg := { Config.reference with floatW := 8 } }
    Idle s ∧ s.mode = .build ∧ s.offset.toNat + s.cfg.floatW ≤ s.cfg.capacity := by decide

theorem witness_AddBytesAppendsTheData :
    let s := { build 0 0 with offset := 256, dataPort := [0x7E, 0x00, 0x33] }
    Idle s ∧ s.mode = .build ∧ s.offset.toNat + (2#16).toNat ≤ s.cfg.capacity ∧
      s.dataPort = [0x7E, 0x00] ++ [0x33] ∧ [0x7E#8, 0x00#8].length = (2#16).toNat := by decide

theorem witness_AddBytesAppendsTheData_none :
    let s := { build 0 0 with offset := 258, dataPort := [0x33] }
    Idle s ∧ s.mode = .build ∧ s.offset.toNat + (0#16).toNat ≤ s.cfg.capacity ∧
      s.dataPort = [] ++ [0x33] ∧ ([] : List Byte).length = (0#16).toNat := by decide

theorem witness_AddBytesWaitsForData :
    let s := { build 0 0 with dataPort := [0x7E] }
    Idle s ∧ s.mode = .build ∧ s.offset.toNat + (2#16).toNat ≤ s.cfg.capacity ∧
      s.dataPort.length < (2#16).toNat := by decide

theorem witness_MisuseOutsideBuild :
    let s := { State.reset with mode := .sent }
    (isWriter (.addFloat 0) = true ∨ Instr.addFloat 0 = .writeRequest) ∧ Idle s ∧ s.fault = .noFault ∧
      s.mode ≠ .build := by decide

theorem witness_MisuseOutsideBuild_writeRequest :
    (isWriter .writeRequest = true ∨ Instr.writeRequest = .writeRequest) ∧ Idle State.reset ∧
      State.reset.fault = .noFault ∧ State.reset.mode ≠ .build := by decide

theorem witness_OverrunWritesNothing :
    let s := { build 0 0 with offset := 255 }
    isWriter (.addU32 0) = true ∧ Idle s ∧ s.fault = .noFault ∧ s.mode = .build ∧
      s.cfg.capacity < s.offset.toNat + encodedWidth s.cfg (.addU32 0) := by decide

theorem witness_WriterFrame :
    isWriter (.addU8 0x55) = true ∧ ∃ t, exec (.addU8 0x55) (build 0 0) = .next t := ⟨rfl, _, rfl⟩

theorem witness_WriterProgramConcatenates :
    let program := [Instr.addBytes 2, .addU16 0x1234]
    let s := { build 4 0 with dataPort := [0x7E, 0x00], offset := 254 }
    (∀ i ∈ program, isWriter i = true) ∧ Idle s ∧ s.mode = .build ∧
      s.cfg.capacity ≤ 65535 ∧ s.offset.toNat + totalWidth s.cfg program ≤ s.cfg.capacity ∧
      (program.map Instr.dataCount).sum ≤ s.dataPort.length := by decide

theorem witness_BeginStreamComposesTheHeader :
    let s := { State.reset with mode := .invalid, cfg := { Config.reference with capacity := 3 } }
    Idle s ∧ 3 ≤ s.cfg.capacity := by decide

/-- A list of statuses is accepted when a test of each says so. -/
theorem accepted_of_all (l : List Status) (h : l.all (fun a => decide (1 ≤ a.toInt)) = true) : AllAccepted l := by
  simpa using h

theorem witness_StuffAndWriteStep_accepted :
    let s := { State.reset with txAnswers := [1, 2, 0] }
    s.pos = .start ∧ AllAccepted [1, 2] ∧ ([1, 2] : List Status).length = (symbol 0x7E).length ∧
      s.txAnswers = [1, 2] ++ [0] := ⟨rfl, accepted_of_all _ (by decide), by decide, rfl⟩

theorem witness_StuffAndWriteStep_refused :
    let s := { State.reset with txAnswers := [1, 0, 1] }
    s.pos = .start ∧ AllAccepted [1] ∧ ([1] : List Status).length < (symbol 0x11).length ∧
      (0 : Status).toInt < 1 ∧ s.txAnswers = [1] ++ [0] ++ [1] :=
  ⟨rfl, accepted_of_all _ (by decide), by decide, by decide, rfl⟩

theorem witness_WriteRequestSendsTheFrame :
    let s := { build 0 0 with txAnswers := List.replicate 6 1 }
    Idle s ∧ s.mode = .build ∧ s.checksum = 0 ∧ s.offset.toNat ≤ s.cfg.capacity ∧
      s.offset.toNat = (bufByte s 2).toNat + 3 ∧ AllAccepted (List.replicate 6 1) ∧
      (List.replicate 6 (1 : Status)).length = (frameOf (bufPrefix s s.offset.toNat)).length ∧
      s.txAnswers = List.replicate 6 1 ++ [] :=
  ⟨by decide, by decide, by decide, by decide, by decide, accepted_of_all _ (by decide), by decide, by decide⟩

theorem witness_WriteRequestLengthMismatch :
    let s := { build 2 0 with offset := 4 }
    Idle s ∧ s.mode = .build ∧ 3 ≤ s.cfg.capacity ∧ s.offset.toNat ≠ (bufByte s 2).toNat + 3 := by decide

theorem witness_WriteRequestLengthMismatch_long :
    let s := { build 255 0 with offset := 259, cfg := { Config.reference with capacity := 300 } }
    Idle s ∧ s.mode = .build ∧ 3 ≤ s.cfg.capacity ∧ 255 < (s.offset.toNat : Int) - 3 := by decide

theorem witness_WriteRequestAbortsOnRefusal :
    let s := { build 0 0 with txAnswers := [1, 1, 1, 1, 1, -3, 1] }
    Idle s ∧ s.mode = .build ∧ s.checksum = 0 ∧ s.offset.toNat ≤ s.cfg.capacity ∧
      s.offset.toNat = (bufByte s 2).toNat + 3 ∧ AllAccepted [1, 1, 1, 1, 1] ∧ (-3 : Status).toInt < 1 ∧
      ([1, 1, 1, 1, 1] : List Status).length < (frameOf (bufPrefix s s.offset.toNat)).length ∧
      s.txAnswers = [1, 1, 1, 1, 1] ++ [-3] ++ [1] :=
  ⟨by decide, by decide, by decide, by decide, by decide, accepted_of_all _ (by decide), by decide, by decide, by decide⟩

theorem witness_WriteRequestFrame_and_EventBound : ∃ t, exec .writeRequest (build 0 0) = .next t := ⟨_, rfl⟩

theorem witness_WriteRequestFrame_fault :
    ∃ t, exec .writeRequest State.reset = .next t ∧ t.fault ≠ State.reset.fault := ⟨_, rfl, by decide⟩

theorem witness_UnstuffStep_silent :
    let s := listening [noData] 0
    s.pos = .start ∧ noData.status.toInt ≤ 0 ∧ s.rxAnswers = noData :: [] := by decide

theorem witness_UnstuffStep_plain :
    let s := listening [⟨1, 0x7E⟩] 0
    s.pos = .start ∧ 0 < (1 : Status).toInt ∧ (0x7E : Byte) ≠ 0x7D ∧ s.rxAnswers = ⟨1, 0x7E⟩ :: [] := by decide

theorem witness_UnstuffStep_lost :
    let s := listening [⟨1, 0x7D⟩, noData] 0
    s.pos = .start ∧ 0 < (1 : Status).toInt ∧ (⟨1, 0x7D⟩ : RxAnswer).data = 0x7D ∧ noData.status.toInt ≤ 0 ∧
      s.rxAnswers = ⟨1, 0x7D⟩ :: noData :: [] := by decide

theorem witness_UnstuffStep_escaped :
    let s := listening [⟨1, 0x7D⟩, ⟨1, 0x7D⟩] 0
    s.pos = .start ∧ 0 < (1 : Status).toInt ∧ (⟨1, 0x7D⟩ : RxAnswer).data = 0x7D ∧
      s.rxAnswers = ⟨1, 0x7D⟩ :: ⟨1, 0x7D⟩ :: [] := by decide

theorem witness_ReadResponseReceives :
    let c : RxSymbol := ⟨arriving [0x5A], 0x5A⟩
    let s := listening (opening.answers ++ arrivalAnswers payload ++ c.answers ++ [⟨1, 0x7E⟩] ++ []) 2
    Idle s ∧ opening.ok ∧ (∀ a ∈ payload, a.ok) ∧ payload.length = opening.hdr.dataLen.toNat ∧
      opening.hdr.dataLen.toNat ≤ (3 : Byte).toNat ∧ opening.hdr.dataLen.toNat ≤ s.cfg.capacity ∧
      opening.hdr.state &&& 0x7F = 0 ∧ c.ok ∧ c.value = checksumByte (responseBytes opening payload) ∧
      Delivers [⟨1, 0x7E⟩] [0x7E] ∧ opening.retries + arrivalRetries payload < (3#16).toNat ∧
      opening.retries + arrivalRetries payload ≤ s.sleepAnswers ∧
      s.rxAnswers = opening.answers ++ arrivalAnswers payload ++ c.answers ++ [⟨1, 0x7E⟩] ++ [] := by decide

/-- V42 a to c: the lenient forms of R50. 00 + D1 + 00 + 03 + 7E + 11 + 20 = 83 modulo 100, so the checksum byte is 7C,
here as 7D 5C. -/
theorem witness_ReadResponseReceives_lenient :
    let c : RxSymbol := ⟨arriving [0x7D, 0x5C], 0x7C⟩
    let s := listening (opening.answers ++ arrivalAnswers lenient ++ c.answers ++ [⟨1, 0x7E⟩] ++ []) 2
    Idle s ∧ opening.ok ∧ (∀ a ∈ lenient, a.ok) ∧ lenient.length = opening.hdr.dataLen.toNat ∧
      opening.hdr.dataLen.toNat ≤ (3 : Byte).toNat ∧ opening.hdr.dataLen.toNat ≤ s.cfg.capacity ∧
      opening.hdr.state &&& 0x7F = 0 ∧ c.ok ∧ c.value = checksumByte (responseBytes opening lenient) ∧
      Delivers [⟨1, 0x7E⟩] [0x7E] ∧ opening.retries + arrivalRetries lenient < (3#16).toNat ∧
      opening.retries + arrivalRetries lenient ≤ s.sleepAnswers ∧
      s.rxAnswers = opening.answers ++ arrivalAnswers lenient ++ c.answers ++ [⟨1, 0x7E⟩] ++ [] := by decide

theorem witness_SilentTransportIsMissingStart :
    let s := listening ([noData, noData] ++ [⟨1, 0x7E⟩]) 2
    Idle s ∧ AllNoData [noData, noData] ∧ [noData, noData].length = (2#16).toNat ∧
      (2#16).toNat ≤ s.sleepAnswers ∧ s.rxAnswers = [noData, noData] ++ [⟨1, 0x7E⟩] := by decide

theorem witness_SilentTransportIsMissingStart_no_budget :
    let s := listening ([] ++ [⟨1, 0x7E⟩]) 0
    Idle s ∧ AllNoData [] ∧ ([] : List RxAnswer).length = (0#16).toNat ∧ (0#16).toNat ≤ s.sleepAnswers ∧
      s.rxAnswers = [] ++ [⟨1, 0x7E⟩] := by decide

theorem witness_FailedSynchronisationIsMissingStart :
    let s := listening ([noData] ++ [⟨1, 0x00⟩] ++ [⟨1, 0x7E⟩]) 1
    Idle s ∧ AllNoData [noData] ∧ [noData].length < (2#16).toNat ∧ [noData].length ≤ s.sleepAnswers ∧
      ((1 : Status).toInt < 0 ∨ (0 < (1 : Status).toInt ∧ (0x00 : Byte) ≠ 0x7E)) ∧
      s.rxAnswers = [noData] ++ [⟨1, 0x00⟩] ++ [⟨1, 0x7E⟩] := by decide

theorem witness_FailedSynchronisationIsMissingStart_error :
    let s := listening ([] ++ [⟨-1, 0x00⟩] ++ []) 0
    Idle s ∧ AllNoData [] ∧ ([] : List RxAnswer).length < (1#16).toNat ∧
      ([] : List RxAnswer).length ≤ s.sleepAnswers ∧
      ((-1 : Status).toInt < 0 ∨ (0 < (-1 : Status).toInt ∧ (0x00 : Byte) ≠ 0x7E)) ∧
      s.rxAnswers = [] ++ [⟨-1, 0x00⟩] ++ [] := by decide

theorem witness_BrokenHeaderIsMissingStop :
    let s := listening ([noData] ++ [⟨1, 0x7E⟩] ++ symbolsAnswers [received 0x00, received 0x7E] ++
      [⟨1, 0x7D⟩, noData] ++ []) 1
    Idle s ∧ AllNoData [noData] ∧ [noData].length < (2#16).toNat ∧ [noData].length ≤ s.sleepAnswers ∧
      Delivers [⟨1, 0x7E⟩] [0x7E] ∧ [received 0x00, received 0x7E].length < 4 ∧
      (∀ x ∈ [received 0x00, received 0x7E], x.ok) ∧
      BrokenSymbol [⟨1, 0x7D⟩, noData] ∧
      s.rxAnswers = [noData] ++ [⟨1, 0x7E⟩] ++ symbolsAnswers [received 0x00, received 0x7E] ++
        [⟨1, 0x7D⟩, noData] ++ [] :=
  ⟨by decide, by decide, by decide, by decide, by decide, by decide, by decide,
    .inr ⟨_, _, rfl, by decide, by decide, by decide⟩, by decide⟩

theorem witness_LongResponseIsFrameTooLong :
    let s := listening (opening.answers ++ arriving [0x7D]) 1
    Idle s ∧ opening.ok ∧ (2 : Byte).toNat < opening.hdr.dataLen.toNat ∧ opening.retries < (2#16).toNat ∧
      opening.retries ≤ s.sleepAnswers ∧ s.rxAnswers = opening.answers ++ arriving [0x7D] := by decide

/-- The last retry stands after a stuff marker. -/
theorem witness_ExhaustedBudgetIsEncodingError :
    let z : List Retry := [⟨none, noData⟩, ⟨some ⟨1, 0x7D⟩, noData⟩]
    let s := listening (opening.answers ++ arrivalAnswers (payload.take 2) ++ retryAnswers z ++ []) 4
    Idle s ∧ opening.ok ∧ (∀ a ∈ payload.take 2, a.ok) ∧ (payload.take 2).length < opening.hdr.dataLen.toNat ∧
      opening.hdr.dataLen.toNat ≤ (3 : Byte).toNat ∧ (payload.take 2).length ≤ s.cfg.capacity ∧
      (∀ r ∈ z, r.ok) ∧ z ≠ [] ∧ opening.retries + arrivalRetries (payload.take 2) + z.length = (4#16).toNat ∧
      (4#16).toNat ≤ s.sleepAnswers ∧
      s.rxAnswers = opening.answers ++ arrivalAnswers (payload.take 2) ++ retryAnswers z ++ [] := by decide

/-- What the two witnesses of PayloadErrorIsMissingStop share: all its premises but the broken symbol. -/
def PayloadErrorPremises (broken : List RxAnswer) : Prop :=
  let z : List Retry := [⟨none, noData⟩]
  let s := listening (opening.answers ++ arrivalAnswers (payload.take 1) ++ retryAnswers z ++ broken ++ []) 2
  Idle s ∧ opening.ok ∧ (∀ x ∈ payload.take 1, x.ok) ∧ (payload.take 1).length < opening.hdr.dataLen.toNat ∧
    opening.hdr.dataLen.toNat ≤ (3 : Byte).toNat ∧ (payload.take 1).length ≤ s.cfg.capacity ∧
    (∀ r ∈ z, r.ok) ∧ opening.retries + arrivalRetries (payload.take 1) + z.length < (3#16).toNat ∧
    opening.retries + arrivalRetries (payload.take 1) + z.length ≤ s.sleepAnswers ∧
    s.rxAnswers = opening.answers ++ arrivalAnswers (payload.take 1) ++ retryAnswers z ++ broken ++ []

theorem witness_PayloadErrorIsMissingStop : PayloadErrorPremises [⟨-2, 0⟩] ∧ ErrorSymbol [⟨-2, 0⟩] :=
  ⟨by unfold PayloadErrorPremises; decide, .inl ⟨_, rfl, by decide⟩⟩

/-- V34 a: the error comes on the read after a stuff marker. -/
theorem witness_PayloadErrorIsMissingStop_after_marker :
    PayloadErrorPremises [⟨1, 0x7D⟩, ⟨-1, 0⟩] ∧ ErrorSymbol [⟨1, 0x7D⟩, ⟨-1, 0⟩] :=
  ⟨by unfold PayloadErrorPremises; decide, .inr ⟨_, _, rfl, by decide, by decide, by decide⟩⟩

/-- An opening that declares five payload bytes, for a buffer of four (V43). -/
def longOpening : Opening := ⟨[], ⟨1, 0x7E⟩, [received 0, received 0, received 0, received 5], ⟨0, 0, 0, 5⟩⟩

/-- The first four payload bytes of V43. -/
def fourBytes : List Arrival :=
  [⟨[], received 1⟩, ⟨[], received 2⟩, ⟨[], received 3⟩, ⟨[], received 4⟩]

theorem witness_PayloadBeyondCapacityIsOverrun :
    let last : Arrival := ⟨[], received 5⟩
    let s := { listening (longOpening.answers ++ arrivalAnswers (fourBytes ++ [last]) ++ []) 0 with
      cfg := { Config.reference with capacity := 4 } }
    Idle s ∧ s.fault = .noFault ∧ longOpening.ok ∧ (∀ a ∈ fourBytes, a.ok) ∧ last.ok ∧
      fourBytes.length < longOpening.hdr.dataLen.toNat ∧ longOpening.hdr.dataLen.toNat ≤ (255 : Byte).toNat ∧
      fourBytes.length = s.cfg.capacity ∧
      longOpening.retries + arrivalRetries (fourBytes ++ [last]) < (5#16).toNat ∧
      longOpening.retries + arrivalRetries (fourBytes ++ [last]) ≤ s.sleepAnswers ∧
      s.rxAnswers = longOpening.answers ++ arrivalAnswers (fourBytes ++ [last]) ++ [] := by decide

theorem witness_WrongSumIsChecksumMismatch :
    let c := received 0x5B
    let s := listening (opening.answers ++ arrivalAnswers payload ++ c.answers ++ [⟨1, 0x7E⟩]) 2
    Idle s ∧ opening.ok ∧ (∀ a ∈ payload, a.ok) ∧ payload.length = opening.hdr.dataLen.toNat ∧
      opening.hdr.dataLen.toNat ≤ (3 : Byte).toNat ∧ opening.hdr.dataLen.toNat ≤ s.cfg.capacity ∧
      c.ok ∧ sumBytes (responseBytes opening payload ++ [c.value]) ≠ 0xFF ∧
      opening.retries + arrivalRetries payload < (3#16).toNat ∧
      opening.retries + arrivalRetries payload ≤ s.sleepAnswers ∧
      s.rxAnswers = opening.answers ++ arrivalAnswers payload ++ c.answers ++ [⟨1, 0x7E⟩] := by decide

/-- V39: bit 0 of the second payload byte 11 arrives flipped. -/
theorem witness_FlippedPayloadBitIsChecksumMismatch :
    let p := payload.set 1 ⟨[⟨none, noData⟩], received 0x10⟩
    let sent : List Byte := [0x7E, 0x11, 0x42]
    let c := received 0x5A
    let s := listening (opening.answers ++ arrivalAnswers p ++ c.answers ++ []) 2
    Idle s ∧ opening.ok ∧ (∀ a ∈ p, a.ok) ∧ p.length = opening.hdr.dataLen.toNat ∧
      opening.hdr.dataLen.toNat ≤ (3 : Byte).toNat ∧ opening.hdr.dataLen.toNat ≤ s.cfg.capacity ∧
      1 < sent.length ∧ 0 < 8 ∧ p.map Arrival.value = sent.set 1 (sent[1] ^^^ (1#8 <<< 0)) ∧
      c.ok ∧ c.value = checksumByte (headerBytes opening.hdr ++ sent) ∧
      opening.retries + arrivalRetries p < (3#16).toNat ∧ opening.retries + arrivalRetries p ≤ s.sleepAnswers ∧
      s.rxAnswers = opening.answers ++ arrivalAnswers p ++ c.answers ++ [] := by decide

/-- V40 c: state C3. -/
def failing : Opening := ⟨[], ⟨1, 0x7E⟩, [received 0, received 0, received 0xC3, received 0], ⟨0, 0, 0xC3, 0⟩⟩

theorem witness_SensorErrorIsExecutionFailure :
    let c := received 0x3C
    let s := listening (failing.answers ++ arrivalAnswers [] ++ c.answers ++ [⟨1, 0x7E⟩]) 0
    Idle s ∧ failing.ok ∧ (∀ a ∈ ([] : List Arrival), a.ok) ∧
      ([] : List Arrival).length = failing.hdr.dataLen.toNat ∧ failing.hdr.dataLen.toNat ≤ (0 : Byte).toNat ∧
      failing.hdr.dataLen.toNat ≤ s.cfg.capacity ∧ failing.hdr.state &&& 0x7F ≠ 0 ∧
      c.ok ∧ c.value = checksumByte (responseBytes failing []) ∧
      failing.retries + arrivalRetries [] < (1#16).toNat ∧
      failing.retries + arrivalRetries [] ≤ s.sleepAnswers ∧
      s.rxAnswers = failing.answers ++ arrivalAnswers [] ++ c.answers ++ [⟨1, 0x7E⟩] := by decide

/-- The checksum byte does not come, in a frame with a sensor error: Phase 5 stands before Phase 6. -/
theorem witness_UnfinishedFrameIsMissingStop_checksum :
    let s := listening (failing.answers ++ arrivalAnswers [] ++ [] ++ [noData] ++ []) 0
    Idle s ∧ failing.ok ∧ (∀ a ∈ ([] : List Arrival), a.ok) ∧
      ([] : List Arrival).length = failing.hdr.dataLen.toNat ∧ failing.hdr.dataLen.toNat ≤ (0 : Byte).toNat ∧
      failing.hdr.dataLen.toNat ≤ s.cfg.capacity ∧ failing.retries + arrivalRetries [] < (1#16).toNat ∧
      failing.retries + arrivalRetries [] ≤ s.sleepAnswers ∧ BrokenSymbol [noData] ∧
      failing.hdr.state &&& 0x7F ≠ 0 ∧
      s.rxAnswers = failing.answers ++ arrivalAnswers [] ++ [] ++ [noData] ++ [] :=
  ⟨by decide, by decide, by decide, by decide, by decide, by decide, by decide, by decide,
    .inl ⟨_, rfl, by decide⟩, by decide, by decide⟩

theorem witness_UnfinishedFrameIsMissingStop_stop :
    let c := arriving [0x5A]
    let s := listening (opening.answers ++ arrivalAnswers payload ++ c ++ [⟨1, 0x00⟩] ++ []) 2
    Idle s ∧ opening.ok ∧ (∀ a ∈ payload, a.ok) ∧ payload.length = opening.hdr.dataLen.toNat ∧
      opening.hdr.dataLen.toNat ≤ (3 : Byte).toNat ∧ opening.hdr.dataLen.toNat ≤ s.cfg.capacity ∧
      opening.retries + arrivalRetries payload < (3#16).toNat ∧
      opening.retries + arrivalRetries payload ≤ s.sleepAnswers ∧
      (RxSymbol.mk c (checksumByte (responseBytes opening payload))).ok ∧ opening.hdr.state &&& 0x7F = 0 ∧
      ((1 : Status).toInt ≤ 0 ∨ (0x00 : Byte) ≠ 0x7E) ∧
      s.rxAnswers = opening.answers ++ arrivalAnswers payload ++ c ++ [⟨1, 0x00⟩] ++ [] := by decide

/-- V33: the marker of the second payload byte 11 is lost, and its position receives 31. -/
theorem witness_LostEscapeIsChecksumMismatch :
    let before := payload.take 1
    let after := payload.drop 2
    let x : Arrival := ⟨[⟨some ⟨1, 0x7D⟩, noData⟩], ⟨[⟨1, 0x31⟩], 0x11 ^^^ 0x20⟩⟩
    let c := received 0x5A
    let s := listening (opening.answers ++ arrivalAnswers (before ++ [x] ++ after) ++ c.answers ++ []) 2
    Idle s ∧ opening.ok ∧ (∀ y ∈ before, y.ok) ∧ (∀ y ∈ after, y.ok) ∧ reservedByte 0x11 = true ∧
      Delivers [⟨1, 0x7D⟩, ⟨1, 0x31⟩] (symbol 0x11) ∧ noData.status.toInt = 0 ∧
      before.length + 1 + after.length = opening.hdr.dataLen.toNat ∧
      opening.hdr.dataLen.toNat ≤ (3 : Byte).toNat ∧ opening.hdr.dataLen.toNat ≤ s.cfg.capacity ∧ c.ok ∧
      c.value = checksumByte
        (headerBytes opening.hdr ++ before.map Arrival.value ++ [0x11] ++ after.map Arrival.value) ∧
      opening.retries + arrivalRetries (before ++ [x] ++ after) < (3#16).toNat ∧
      opening.retries + arrivalRetries (before ++ [x] ++ after) ≤ s.sleepAnswers ∧
      s.rxAnswers = opening.answers ++ arrivalAnswers (before ++ [x] ++ after) ++ c.answers ++ [] := by decide

theorem witness_LostEscapeStoresTheRawByte :
    let s := { listening ([⟨1, 0x7D⟩, noData, ⟨1, 0x5E⟩] ++ []) 1 with hdr := ⟨0, 0xD1, 0, 3⟩, budget := 2 }
    s.pos = .start ∧ s.offset.toNat < s.hdr.dataLen.toNat ∧ s.offset.toNat < s.cfg.capacity ∧
      2 ≤ s.budget.toNat ∧ 0 < s.sleepAnswers ∧ Delivers [⟨1, 0x7D⟩] [0x7D] ∧ noData.status.toInt = 0 ∧
      0 < (1 : Status).toInt ∧ (0x5E : Byte) ≠ 0x7D ∧ s.rxAnswers = [⟨1, 0x7D⟩, noData, ⟨1, 0x5E⟩] ++ [] := by decide

theorem witness_ReadResponseEventBounds_and_Frame :
    ∃ t, exec (.readResponse 3 5) (listening [noData, ⟨1, 0x7E⟩] 1) = .next t := ⟨_, rfl⟩

theorem witness_EndedResponseIsValidOrInvalid :
    ∃ t, exec (.readResponse 0 5) (listening (arriving [0x7E, 0, 0, 0, 0, 0xFF, 0x7E]) 0) = .next t ∧
      t.busy = false := ⟨_, rfl, rfl⟩

theorem witness_EndedResponseIsValidOrInvalid_invalid :
    ∃ t, exec (.readResponse 0 5) (listening (arriving [0x00]) 0) = .next t ∧ t.busy = false ∧ t.mode = .invalid :=
  ⟨_, rfl, rfl, rfl⟩

theorem witness_RequestRoundTrip :
    let wire := frameOf [0x11, 0x7E, 0x01, 0x13]
    let s := { listening (arriving ([0x7E] ++ symbol 0x11 ++ symbol 0x7E ++ [0x00] ++
      wire.drop (1 + (symbol 0x11 ++ symbol 0x7E).length)) ++ []) 0 with
      dataPort := [0x13], txAnswers := List.replicate wire.length 1 }
    Idle s ∧ s.cfg.wf = true ∧ [0x13#8].length = (0x01 : Byte).toNat ∧ [0x13#8].length + 3 ≤ s.cfg.capacity ∧
      (0x01 : Byte).toNat ≤ (0x01 : Byte).toNat ∧ 1 ≤ (1#16).toNat ∧ s.dataPort = [0x13] ∧
      AllAccepted (List.replicate wire.length 1) ∧
      (List.replicate wire.length (1 : Status)).length = (frameOf ([0x11, 0x7E, 0x01] ++ [0x13])).length ∧
      s.txAnswers = List.replicate wire.length 1 ∧
      s.rxAnswers = arriving ([0x7E] ++ symbol 0x11 ++ symbol 0x7E ++ [0x00] ++
        wire.drop (1 + (symbol 0x11 ++ symbol 0x7E).length)) ++ [] ∧
      Delivers (arriving ([0x7E] ++ symbol 0x11 ++ symbol 0x7E ++ [0x00] ++
          wire.drop (1 + (symbol 0x11 ++ symbol 0x7E).length)))
        ([0x7E] ++ symbol 0x11 ++ symbol 0x7E ++ [0x00] ++
          wire.drop (1 + (symbol 0x11 ++ symbol 0x7E).length)) :=
  ⟨by decide, by decide, by decide, by decide, by decide, by decide, by decide, accepted_of_all _ (by decide), by decide,
    by decide, by decide, by decide⟩

/-- The invariant holds in a state in which an operation waits, whatever the answers on its ports. -/
theorem witness_waiting_inv (rx : List RxAnswer) : Inv { waiting with rxAnswers := rx } where
  config := test_config_reference_wf
  buf := ⟨rfl, fun c h => by cases h⟩
  offset := Nat.zero_le _
  result := .inl rfl
  fault := fun h => absurd rfl h
  idle := fun h => by cases h
  busy := fun _ => ⟨⟨rfl, rfl, fun a h => by cases h⟩, rfl, .inl rfl, Nat.succ_pos 4, rfl, rfl⟩

theorem witness_EveryStepKeepsInv : Inv waiting ∧ step waiting = .next waiting := ⟨witness_waiting_inv [], rfl⟩

theorem witness_EveryStepKeepsBufCanonical :
    BufInv (build 0 0x1000000055) ∧ ∃ t, step (build 0 0x1000000055) = .next t := ⟨by decide, _, rfl⟩

theorem witness_EveryStepKeepsWidths :
    let s := { waiting with rxAnswers := [⟨-32768, 0⟩] }
    Inv s ∧ WidthsHold s ∧ StatusPortsFit s ∧ ∃ t, step s = .next t :=
  ⟨witness_waiting_inv _, by decide, ⟨(fun _ h => nomatch h), by decide⟩, _, rfl⟩

theorem witness_InvStepNeverStops :
    Inv waiting ∧ ∀ a v rest, waiting.host = .writeBuf a v :: rest → a.toNat < waiting.cfg.capacity :=
  ⟨witness_waiting_inv [], fun _ _ _ h => by cases h⟩

theorem witness_EventsAccountForEveryAnswer_and_Parameters :
    ∃ t, step { waiting with rxAnswers := [noData], sleepAnswers := 1 } = .next t := ⟨_, rfl⟩

theorem witness_WaitingDoesNotChangeTheOutcome :
    ∃ t, exec (.readResponse 3 5) State.reset = .next t ∧ t.busy = true ∧ t.resetInput = false := ⟨_, rfl, rfl, rfl⟩

end Sys2Proof.Tests
end

section
/-! PROOFS. The statements of 00_scope.md that follow from the inversion of the step: what is constant, what the events
account for, and how a command word is taken. -/

namespace Sys2Proof.Machine

/-- The answers on the ports differ by what the new events show, whatever the step is: a host move and a reset leave
both alone, an operation evolves. -/
theorem step_accounted {s t : State} (h : step s = .next t) : Accounted s t := by
  rcases step_next s t h with ⟨_, rfl⟩ | ⟨_, _, he⟩ |
    ⟨_, _, rfl | ⟨_, _, _, _, _, rfl⟩ | ⟨_, _, _, _, _, _, rfl⟩ | ⟨_, _, _, _, _, _, he⟩⟩
  · exact .refl rfl rfl rfl rfl
  · exact he.accounted
  · exact .refl rfl rfl rfl rfl
  · exact .refl rfl rfl rfl rfl
  · exact .refl rfl rfl rfl rfl
  · exact (exec_evolves _ _ _ he).accounted

theorem step_cfg {s t : State} (h : step s = .next t) : t.cfg = s.cfg := by
  rcases step_next s t h with ⟨_, rfl⟩ | ⟨_, _, he⟩ |
    ⟨_, _, rfl | ⟨_, _, _, _, _, rfl⟩ | ⟨_, _, _, _, _, _, rfl⟩ | ⟨_, _, _, _, _, _, he⟩⟩
  · rfl
  · exact he.cfg
  · rfl
  · rfl
  · rfl
  · exact (exec_evolves _ _ _ he).cfg

/-- A fault raised in an idle state without one: FAULT and MODE are all that changes. -/
theorem raiseFault_idle {f : FaultCode} {s : State} (hi : Idle s) (hf : s.fault = .noFault) :
    raiseFault f s = { s with fault := f, mode := .invalid } := by
  obtain ⟨hb, hp, hx, hq, hc⟩ := hi
  cases s
  simp_all [raiseFault, endOperation]

/-- An operand of `add_bytes` or `read_response` at or above its width is not well formed. -/
theorem not_wf_of_operand_beyond_width {c : Config} {i : Instr}
    (h : (∃ length, i = .addBytes length ∧ 2 ^ c.lenW ≤ length.toNat) ∨
      ∃ e limit, i = .readResponse e limit ∧ (2 ^ c.expLenW ≤ e.toNat ∨ 2 ^ c.timeoutW ≤ limit.toNat)) :
    i.wf c = false := by
  rcases h with ⟨length, rfl, h⟩ | ⟨e, limit, rfl, h | h⟩
  · exact decide_eq_false (Nat.not_lt.2 h)
  · simp [Instr.wf, h]
  · simp [Instr.wf, h]

end Sys2Proof.Machine

open Sys2Proof Sys2Proof.Machine

/-- Settles O58: a host move and a reset issue no event, and an operation evolves. -/
theorem eventsAccountForEveryAnswer : Obligations.EventsAccountForEveryAnswer :=
  fun _ _ h => step_accounted h

/-- Settles O59, by the same cases of the step. -/
theorem parametersNeverChange : Obligations.ParametersNeverChange :=
  fun _ _ h => step_cfg h

/-- Settles O5: the word is refused by `decodeFor`, and the fault is raised in an idle state. -/
theorem operandBeyondItsWidthIsIllegal : Obligations.OperandBeyondItsWidthIsIllegal := by
  intro s cw rest i ⟨hi, hf, hr⟩ hh hd hw
  rw [step_illegal hr hi.1 hh hf (decodeFor_of_not_wf hd (not_wf_of_operand_beyond_width hw))]
  exact congrArg _ (raiseFault_idle (s := { s with host := rest }) hi hf)

/-- Settles O7: `decodeFor` agrees with `decode` on an operation that is well formed. -/
theorem stepRunsDecodedOperation : Obligations.StepRunsDecodedOperation := by
  intro s cw rest i ⟨hi, hf, hr⟩ hh hd
  exact ⟨fun hw => step_run hr hi.1 hh hf (decodeFor_of_wf hd hw), wf_of_reference_widths i⟩
end

section
/-! PROOFS. A writer operation that fits and has its data appends its bytes (R63 to R71), and appends compose (R72). -/

namespace Sys2Proof.Machine

theorem bufByte_of_find {s : State} {a : Nat} {v : Byte} (h : Memory.find s.buf a = some v) : bufByte s a = v := by
  simp [bufByte, h]

/-- The end of an append accepted from an idle state: BUF and OFFSET are all that changes, whatever phase it ran in. -/
theorem endAppend_idle {s t : State} {m : Memory} {n : Nat} (hi : Idle s)
    (ht : t = { s with
      buf := m, busy := t.busy, phase := t.phase, idx := t.idx, pos := t.pos, copyLength := t.copyLength }) :
    endAppend n t = { s with buf := m, offset := BitVec.ofNat 16 (s.offset.toNat + n) } := by
  obtain ⟨hb, hp, hx, hq, hc⟩ := hi
  rw [ht]
  simp [endAppend, endOperation, hb, hp, hx, hq, hc]

/-- A BUF that holds the bytes e from OFFSET upward and is otherwise that of s makes an append. -/
theorem appended_of_find {s : State} {m : Memory} {e : List Byte}
    (hin : ∀ k (hk : k < e.length), Memory.find m (s.offset.toNat + k) = some e[k])
    (hout : ∀ b, b < s.offset.toNat ∨ s.offset.toNat + e.length ≤ b → Memory.find m b = Memory.find s.buf b) :
    Appended s { s with buf := m, offset := BitVec.ofNat 16 (s.offset.toNat + e.length) } e :=
  ⟨rfl, fun k hk => bufByte_of_find (hin k hk), fun a ha => by simp [bufByte, hout a ha]⟩

/-- R63: an append that is legal and fits. -/
theorem append_appends {s : State} {e : List Byte} (hi : Idle s) (hm : s.mode = .build)
    (hc : s.offset.toNat + e.length ≤ s.cfg.capacity) : ∃ t, append e s = .stop t ∧ Appended s t e := by
  obtain ⟨m, hw, hin, hout, _, _⟩ := writeBytes_eq s.offset.toNat e (accept .idle s) hc
  refine ⟨_, ?_, appended_of_find hin hout⟩
  unfold append
  rw [guardAppend_fits (s := accept .idle s) hm hc, accept_offset, hw]
  exact congrArg _ (endAppend_idle hi rfl)

/-- An `add_bytes` that has passed both tests, before its first data byte. -/
def copying (length : BitVec 16) (s : State) : State := { accept .copy s with copyLength := length }

theorem exec_addBytes_fits {s : State} {length : BitVec 16} (hm : s.mode = .build)
    (hc : s.offset.toNat + length.toNat ≤ s.cfg.capacity) :
    exec (.addBytes length) s = outcome (copyLoop length.toNat (copying length s)) :=
  congrArg outcome (guardAppend_fits (s := accept .copy s) hm hc)

/-- R71: an `add_bytes` that is legal, fits and has its data. -/
theorem addBytes_appends {s : State} {length : BitVec 16} {e rest : List Byte} (hi : Idle s) (hm : s.mode = .build)
    (hc : s.offset.toNat + length.toNat ≤ s.cfg.capacity) (hd : s.dataPort = e ++ rest)
    (he : e.length = length.toNat) :
    ∃ t, exec (.addBytes length) s = .next t ∧ Appended { s with dataPort := rest } t e := by
  obtain ⟨m, i, hcopy, hin, hout⟩ := copyLoop_eq length.toNat (copying length s) e rest he hd hc
    (by simpa [copying] using length.isLt)
  rw [← he] at hout
  refine ⟨_, ?_, appended_of_find hin hout⟩
  rw [exec_addBytes_fits hm hc, hcopy, he]
  exact congrArg Host.Outcome.next (endAppend_idle (s := { s with dataPort := rest }) hi rfl)

/-- The bytes of a 16-bit value as the table of R54 writes them. -/
theorem serialize_two (c : Config) (v : BitVec 16) :
    serialize c.byteOrder 2 v = inOrder c [v.extractLsb 15 8, v.extractLsb 7 0] :=
  serialize_eq_inOrder c 2 v

/-- The bytes of a 32-bit value as the table of R54 writes them. -/
theorem serialize_four (c : Config) (v : BitVec 32) :
    serialize c.byteOrder 4 v =
      inOrder c [v.extractLsb 31 24, v.extractLsb 23 16, v.extractLsb 15 8, v.extractLsb 7 0] :=
  serialize_eq_inOrder c 4 v

theorem boolByte_eq (v : BitVec 1) : boolByte v = if v = 1 then 0x01 else 0x00 := by
  revert v
  decide

/-- A writer operation that is legal, fits and has its data appends the bytes of the table of R54 and takes its data off
the port. -/
theorem writer_appends {i : Instr} {s : State} (hw : isWriter i = true) (hi : Idle s) (hm : s.mode = .build)
    (hc : s.offset.toNat + encodedWidth s.cfg i ≤ s.cfg.capacity) (hd : i.dataCount ≤ s.dataPort.length) :
    ∃ t, exec i s = .next t ∧
      Appended { s with dataPort := s.dataPort.drop i.dataCount } t (appendedBytes s.cfg i s.dataPort) := by
  rw [← appendedBytes_length s.cfg i s.dataPort hw hd] at hc
  have happend : ∀ e, e = appendedBytes s.cfg i s.dataPort →
      ∃ t, outcome (append e s) = .next t ∧ Appended s t (appendedBytes s.cfg i s.dataPort) := by
    rintro e rfl
    obtain ⟨t, ht, ha⟩ := append_appends hi hm hc
    exact ⟨t, by rw [ht]; rfl, ha⟩
  cases i with
  | addU8 v => exact happend [v] rfl
  | addBool v => exact happend [boolByte v] (by rw [boolByte_eq]; rfl)
  | addU16 v => exact happend (serialize s.cfg.byteOrder 2 v) (serialize_two s.cfg v)
  | addI16 v => exact happend (serialize s.cfg.byteOrder 2 v) (serialize_two s.cfg v)
  | addU32 v => exact happend (serialize s.cfg.byteOrder 4 v) (serialize_four s.cfg v)
  | addI32 v => exact happend (serialize s.cfg.byteOrder 4 v) (serialize_four s.cfg v)
  | addFloat v =>
    exact happend (serialize s.cfg.byteOrder s.cfg.floatW v) (serialize_eq_inOrder s.cfg s.cfg.floatW v)
  | addBytes length =>
    have hl : (s.dataPort.take length.toNat).length = length.toNat := List.length_take_of_le hd
    exact addBytes_appends hi hm (hl ▸ hc) (List.take_append_drop _ _).symm hl
  | beginStream c a l => cases hw
  | writeRequest => cases hw
  | readResponse e n => cases hw

theorem appended_nil (s : State) : Appended s s [] := by
  refine ⟨?_, by simp, by simp⟩
  simp

/-- Two appends one after the other are one append of both byte lists. -/
theorem Appended.trans {s t u : State} {e e' : List Byte} {port port' : List Byte}
    (h : Appended { s with dataPort := port } t e) (h' : Appended { t with dataPort := port' } u e')
    (hc : s.offset.toNat + e.length < 65536) : Appended { s with dataPort := port' } u (e ++ e') := by
  obtain ⟨ht, hin, hout⟩ := h
  obtain ⟨hu, hin', hout'⟩ := h'
  have ho : t.offset.toNat = s.offset.toNat + e.length := by
    rw [ht]
    exact Nat.mod_eq_of_lt hc
  dsimp only at hin hout hin' hout'
  rw [ho] at hin' hout'
  refine ⟨?_, fun k hk => ?_, fun a ha => ?_⟩
  · rw [hu, ho, ht]
    simp [Nat.add_assoc]
  · rw [List.getElem_append]
    split
    · next hlt =>
      exact (hout' (s.offset.toNat + k) (.inl (by omega))).trans (hin k hlt)
    · next hge =>
      rw [List.length_append] at hk
      have := hin' (k - e.length) (by omega)
      rwa [Nat.add_assoc, Nat.add_sub_cancel' (Nat.le_of_not_lt hge)] at this
  · rw [List.length_append] at ha
    dsimp only at ha
    exact (hout' a (by omega)).trans (hout a (by omega))

/-- Whatever an append does not say changes is as before. -/
theorem Appended.frame {s t : State} {e : List Byte} (h : Appended s t e) :
    (Idle s → Idle t) ∧ t.mode = s.mode ∧ t.cfg = s.cfg ∧ t.dataPort = s.dataPort ∧
      t.offset = BitVec.ofNat 16 (s.offset.toNat + e.length) := by
  rw [h.1]
  exact ⟨id, rfl, rfl, rfl, rfl⟩

end Sys2Proof.Machine

open Sys2Proof Sys2Proof.Machine

/-- Settles O18: at FLOAT_W = 4 the slices are those of any 32-bit value. -/
theorem floatAppend : Obligations.FloatAppend := by
  intro s v hi hm hc
  refine ⟨?_, fun hw => ?_⟩
  · obtain ⟨t, ht, ha⟩ := writer_appends (i := .addFloat v) rfl hi hm hc (Nat.zero_le _)
    exact ⟨t, ht, ha⟩
  · rw [← serialize_four, serialize_eq_inOrder, ← hw]
    rfl

/-- Settles O24, by induction on the program. -/
theorem writerProgramConcatenates : Obligations.WriterProgramConcatenates := by
  intro program
  induction program with
  | nil =>
    intro s _ _ _ _ _ _
    exact ⟨s, rfl, appended_nil s, rfl⟩
  | cons i rest ih =>
    intro s hw hi hm hcap hc hd
    simp only [totalWidth, List.map_cons, List.sum_cons] at hc hd
    have hwi := hw i List.mem_cons_self
    have hlen := appendedBytes_length s.cfg i s.dataPort hwi (by omega)
    obtain ⟨t, ht, ha⟩ := writer_appends hwi hi hm (by omega) (by omega)
    obtain ⟨hidle, hmode, hcfg, hport, hoff⟩ := ha.frame
    dsimp only at hmode hcfg hport hoff
    have ho : t.offset.toNat = s.offset.toNat + encodedWidth s.cfg i := by
      rw [hoff, hlen, BitVec.toNat_ofNat]
      omega
    obtain ⟨u, hu, hau, hlu⟩ := ih t (fun j hj => hw j (List.mem_cons_of_mem _ hj)) (hidle hi) (hmode.trans hm)
      (hcfg ▸ hcap) (by rw [ho, hcfg, totalWidth]; omega) (by rw [hport, List.length_drop]; omega)
    have hall : appendedByAll t.cfg rest t.dataPort = appendedByAll s.cfg rest (s.dataPort.drop i.dataCount) := by
      rw [hcfg, hport]
    rw [hall] at hau hlu
    refine ⟨u, ?_, ?_, ?_⟩
    · rw [execAll, ht]
      exact hu
    · rw [hport, List.drop_drop] at hau
      exact ha.trans hau (by omega)
    · rw [appendedByAll, List.length_append, hlen, hlu, hcfg]
      rfl
end

section
/-! PROOFS. What holds while an operation runs, and what each way to end or to wait leaves. The widths of R6 are carried
beside the invariant under an assumption p: nothing is asked of them where p is not given. -/

namespace Sys2Proof.Machine

/-! ### The parameters -/

theorem capacity_of_wf {c : Config} (h : c.wf = true) :
    3 ≤ c.capacity ∧ c.capacity ≤ 65535 ∧ c.capacity < 2 ^ c.offsetW := by
  simp only [Config.wf, Bool.and_eq_true, decide_eq_true_eq] at h
  obtain ⟨⟨⟨⟨⟨⟨⟨hlow, hhigh⟩, hwidth⟩, _⟩, _⟩, _⟩, _⟩, _⟩ := h
  exact ⟨hlow, hhigh, hwidth⟩

theorem errorCode_mem (c : ErrorCodes) (e : ErrorKind) : errorCode c e ∈ c.toList := by
  cases e <;> simp [errorCode, ErrorCodes.toList]

/-- STATUS_W holds every return code. -/
theorem signedFits_errorCode {c : Config} (h : c.wf = true) (e : ErrorKind) :
    signedFits c.statusW (errorCode c.errorCodes e) = true := by
  simp only [Config.wf, Bool.and_eq_true, List.all_eq_true] at h
  obtain ⟨⟨⟨_, hcodes⟩, _⟩, _⟩ := h
  exact hcodes _ (errorCode_mem _ e)

@[simp] theorem signedFits_zero (w : Nat) : signedFits w 0 = true := by
  simp [signedFits]

/-! ### The state while an operation runs -/

/-- LAST_IO_STATUS and the answers on the ports are STATUS_W bits wide. -/
def StatusesFit (s : State) : Prop := signedFits s.cfg.statusW s.lastIoStatus ∧ StatusPortsFit s

/-- The widths of R6 that an operation can only keep by what it does: OFFSET and RESULT, whose widths follow from the
invariant, are left out. -/
def WidthsKept (s : State) : Prop :=
  s.budget.toNat < 2 ^ s.cfg.timeoutW ∧ s.explen.toNat < 2 ^ s.cfg.expLenW ∧ s.copyLength.toNat < 2 ^ s.cfg.lenW ∧
  StatusesFit s

/-- What holds from the acceptance of an operation to its end, whatever its phase. -/
def Running (p : Prop) (s : State) : Prop :=
  s.cfg.wf = true ∧ BufInv s ∧ s.offset.toNat ≤ s.cfg.capacity ∧ ResultInv s ∧ s.fault = .noFault ∧ s.busy = true ∧
  (p → WidthsKept s)

/-- What a step leaves. -/
def Kept (p : Prop) (s : State) : Prop := Inv s ∧ (p → WidthsKept s)

variable {p : Prop} {s t : State}

theorem Running.capacity (h : Running p s) : 3 ≤ s.cfg.capacity ∧ s.cfg.capacity ≤ 65535 := by
  obtain ⟨hwf, _⟩ := h
  obtain ⟨hlow, hhigh, _⟩ := capacity_of_wf hwf
  exact ⟨hlow, hhigh⟩

theorem Running.offset_le (h : Running p s) : s.offset.toNat ≤ s.cfg.capacity := by
  obtain ⟨_, _, ho, _⟩ := h
  exact ho

theorem Running.bufInv (h : Running p s) : BufInv s := by
  obtain ⟨_, hb, _⟩ := h
  exact hb

/-- A running state after a write to BUF and a move of OFFSET. -/
theorem Running.update {m : Memory} {o : BitVec 16} (h : Running p s) (hb : BufInv { s with buf := m })
    (ho : o.toNat ≤ s.cfg.capacity) : Running p { s with buf := m, offset := o } := by
  obtain ⟨hwf, _, _, hr, hf, hbusy, hw⟩ := h
  exact ⟨hwf, hb, ho, hr, hf, hbusy, hw⟩

theorem spendBudget_budget_toNat (h : 0 < s.budget.toNat) : (spendBudget s).budget.toNat = s.budget.toNat - 1 := by
  rw [spendBudget_budget]
  bv_omega

/-- One unit of a BUDGET that is not used up. -/
theorem Running.spent (h : Running p s) (hb : 0 < s.budget.toNat) : Running p (spendBudget s) := by
  obtain ⟨hwf, hbuf, ho, hr, hf, hbusy, hw⟩ := h
  refine ⟨hwf, hbuf, ho, hr, hf, hbusy, fun hp => ?_⟩
  obtain ⟨hbudget, hrest⟩ := hw hp
  refine ⟨?_, hrest⟩
  refine lt_of_le_of_lt ?_ hbudget
  rw [spendBudget_budget_toNat hb]
  exact Nat.sub_le _ _

/-! ### Waiting and ending -/

/-- An operation that waits where its phase says. -/
theorem Running.waits (h : Running p s) (hp : PhaseInv s) : Kept p s := by
  obtain ⟨hwf, hbuf, ho, hr, hf, hbusy, hw⟩ := h
  exact ⟨{ config := hwf, buf := hbuf, offset := ho, result := hr, fault := fun hne => absurd hf hne,
           idle := fun hidle => absurd hidle (by simp [hbusy]), busy := fun _ => hp }, hw⟩

/-- The end of an operation. -/
theorem kept_endOperation (hwf : s.cfg.wf = true) (hbuf : BufInv s) (ho : s.offset.toNat ≤ s.cfg.capacity)
    (hr : ResultInv s) (hf : s.fault ≠ .noFault → s.mode = .invalid) (hm : ModeInv (endOperation s))
    (hw : p → WidthsKept s) : Kept p (endOperation s) := by
  refine ⟨{ config := hwf, buf := hbuf, offset := ho, result := hr, fault := fun hne => ⟨rfl, hf hne⟩,
            idle := fun _ => ⟨⟨rfl, rfl, rfl, rfl, rfl⟩, hm⟩, busy := fun hb => by cases hb }, fun hp => ?_⟩
  obtain ⟨hbudget, hexp, _, hst⟩ := hw hp
  exact ⟨hbudget, hexp, Nat.two_pow_pos _, hst⟩

theorem Running.failed (e : ErrorKind) (h : Running p s) : Kept p (fail e s) := by
  obtain ⟨hwf, hbuf, ho, _, hf, _, hw⟩ := h
  exact kept_endOperation hwf hbuf ho (.inr ⟨e, rfl⟩) (fun hne => absurd hf hne) trivial hw

theorem Running.faulted (f : FaultCode) (h : Running p s) : Kept p (raiseFault f s) := by
  obtain ⟨hwf, hbuf, ho, hr, _, _, hw⟩ := h
  exact kept_endOperation hwf hbuf ho hr (fun _ => rfl) trivial hw

theorem Running.succeeded {m : Mode} (h : Running p s) (hm : ModeInv (returnSuccess m s)) :
    Kept p (returnSuccess m s) := by
  obtain ⟨hwf, hbuf, ho, _, hf, _, hw⟩ := h
  exact kept_endOperation hwf hbuf ho (.inl rfl) (fun hne => absurd hf hne) hm hw

/-- The end of an append: the request under construction has grown. -/
theorem Running.appended {n : Nat} (h : Running p s) (hm : s.mode = .build) (hck : s.checksum = 0)
    (hio : s.lastIoStatus = 0) (h3 : 3 ≤ s.offset.toNat) (hc : s.offset.toNat + n ≤ s.cfg.capacity)
    (hwr : WrittenBelow s (s.offset.toNat + n)) : Kept p (endAppend n s) := by
  obtain ⟨_, hmax⟩ := h.capacity
  have ho : (BitVec.ofNat 16 (s.offset.toNat + n)).toNat = s.offset.toNat + n := by
    rw [BitVec.toNat_ofNat]
    omega
  obtain ⟨hwf, hbuf, _, hr, hf, _, hw⟩ := h
  refine kept_endOperation hwf hbuf (by rw [ho]; exact hc) hr (fun hne => absurd hf hne) ?_ hw
  simp only [ModeInv, endOperation_mode, hm]
  refine ⟨?_, hck, hio, ?_⟩
  · rw [endOperation_offset, ho]
    exact Nat.le_add_right_of_le h3
  · rw [endOperation_offset, ho]
    exact hwr

/-! ### Flows -/

/-- The flow goes on in a state that meets P, or stops in a state a step may leave; it never reaches an address that
does not exist. -/
def Keeps (p : Prop) (P : State → Prop) (f : Flow) : Prop :=
  match f with
  | .go t => P t
  | .stop t => Kept p t
  | .bad _ => False

/-- The flow stops in a state a step may leave. -/
abbrev Ends (p : Prop) (f : Flow) : Prop := Keeps p (fun _ => False) f

theorem Keeps.andThen {P Q : State → Prop} {f : Flow} {k : State → Flow} (hf : Keeps p P f)
    (hk : ∀ t, P t → Keeps p Q (k t)) : Keeps p Q (Machine.andThen f k) := by
  cases f with
  | go t => exact hk t hf
  | stop t => exact hf
  | bad x => exact hf

theorem Keeps.mono {P Q : State → Prop} {f : Flow} (hf : Keeps p P f) (h : ∀ t, P t → Q t) : Keeps p Q f := by
  cases f with
  | go t => exact h t hf
  | stop t => exact hf
  | bad x => exact hf

/-- A flow that ends is a step with a next state. -/
theorem Ends.outcome {f : Flow} (h : Ends p f) : ∃ t, outcome f = .next t ∧ Kept p t := by
  cases f with
  | go t => exact h.elim
  | stop t => exact ⟨t, rfl, h⟩
  | bad x => exact h.elim

/-! ### Written bytes -/

theorem writtenBelow_setByte {n a : Nat} {v : Byte} (h : WrittenBelow s n) : WrittenBelow (setByte a v s) n := by
  intro b hb
  rcases eq_or_ne b a with rfl | hne
  · rw [setByte_buf, Memory.find_put_same]
    rfl
  · rw [setByte_buf, Memory.find_put_other _ _ _ _ hne]
    exact h b hb

theorem writtenBelow_setByte_succ {n : Nat} {v : Byte} (h : WrittenBelow s n) :
    WrittenBelow (setByte n v s) (n + 1) := by
  intro b hb
  rcases Nat.lt_succ_iff_lt_or_eq.1 hb with hlt | rfl
  · exact writtenBelow_setByte h b hlt
  · rw [setByte_buf, Memory.find_put_same]
    rfl

/-- Bytes written up to an address, and from there on more of them. -/
theorem writtenBelow_of_find {m : Memory} {a : Nat} {e : List Byte} (h : WrittenBelow s a)
    (hin : ∀ k (hk : k < e.length), Memory.find m (a + k) = some e[k])
    (hout : ∀ b < a, Memory.find m b = Memory.find s.buf b) :
    WrittenBelow { s with buf := m } (a + e.length) := by
  intro b hb
  rcases Nat.lt_or_ge b a with hlt | hge
  · rw [hout b hlt]
    exact h b hlt
  · obtain ⟨k, rfl⟩ := Nat.exists_eq_add_of_le hge
    rw [hin k (by omega)]
    rfl

end Sys2Proof.Machine
end

section
/-! PROOFS. The serializer and the encoder, from a running state: each phase from where it stands ends the operation or
waits where the invariant says. -/

namespace Sys2Proof.Machine

variable {p : Prop} {s : State}

/-! ### The serializer -/

/-- A write within BUF, of a running state. -/
theorem Running.setByte {a : Nat} (v : Byte) (h : Running p s) (ha : a < s.cfg.capacity) :
    Running p (setByte a v s) :=
  h.update (setByte_keeps_buf a v s ha h.bufInv) h.offset_le

theorem guardAppend_ends {n : Nat} {k : State → Flow} (h : Running p s)
    (hk : s.mode = .build → s.offset.toNat + n ≤ s.cfg.capacity → Ends p (k s)) : Ends p (guardAppend n s k) := by
  by_cases hm : s.mode = .build
  · rcases Nat.lt_or_ge s.cfg.capacity (s.offset.toNat + n) with hc | hc
    · rw [guardAppend_overrun hm hc]
      exact h.faulted _
    · rw [guardAppend_fits hm hc]
      exact hk hm hc
  · rw [guardAppend_misuse hm]
    exact h.faulted _

theorem append_ends {e : List Byte} (h : Running p (accept .idle s)) (hb : s.mode = .build → BuildInv s) :
    Ends p (append e s) := by
  refine guardAppend_ends h fun hm hc => ?_
  obtain ⟨h3, hck, hio, hwr⟩ := hb hm
  obtain ⟨m, hw, hin, hout, hwf, hcap⟩ := writeBytes_eq s.offset.toNat e (accept .idle s) hc
  obtain ⟨hbwf, hbcap⟩ := h.bufInv
  rw [accept_offset, hw]
  exact (h.update (m := m) ⟨hwf hbwf, hcap hbcap⟩ h.offset_le).appended hm hck hio h3 hc
    (writtenBelow_of_find hwr hin fun b hb => hout b (.inl hb))

/-- The COPY loop has come to IDX: as while it waits, or with no data byte still to come. -/
def InCopy (s : State) : Prop :=
  s.mode = .build ∧ s.pos = .start ∧ s.checksum = 0 ∧ s.lastIoStatus = 0 ∧ 3 ≤ s.offset.toNat ∧
  s.idx.toNat ≤ s.copyLength.toNat ∧ s.offset.toNat + s.copyLength.toNat ≤ s.cfg.capacity ∧
  WrittenBelow s (s.offset.toNat + s.idx.toNat)

theorem copyPhase_ends (h : Running p s) (hp : s.phase = .copy) (hi : InCopy s) : Ends p (copyPhase s) := by
  obtain ⟨hm, hpos, hck, hio, h3, hidx, hc, hwr⟩ := hi
  have hlt := s.copyLength.isLt
  have hev := leads_copyPhase s
  unfold copyPhase at hev ⊢
  rcases Nat.lt_or_ge s.dataPort.length (s.copyLength.toNat - s.idx.toNat) with hd | hd
  · obtain ⟨m, hcopy, hin, hout⟩ := copyLoop_waits (s.copyLength.toNat - s.idx.toNat) s hd (by omega) (by omega)
    rw [hcopy, leads_stop] at hev
    rw [hcopy]
    have hx : (s.idx + BitVec.ofNat 16 s.dataPort.length).toNat = s.idx.toNat + s.dataPort.length := by
      rw [BitVec.toNat_add, BitVec.toNat_ofNat]
      omega
    have hbuf : BufInv { s with buf := m } := hev.buf h.bufInv
    refine Running.waits (h.update hbuf h.offset_le) ?_
    simp only [PhaseInv, hp, hx]
    refine ⟨hm, hpos, hck, hio, h3, by omega, hc, ?_⟩
    rw [← Nat.add_assoc]
    exact writtenBelow_of_find hwr hin fun b hb => hout b (.inl hb)
  · have hl := List.length_take_of_le hd
    obtain ⟨m, i, hcopy, hin, hout⟩ := copyLoop_eq (s.copyLength.toNat - s.idx.toNat) s _ _ hl
      (List.take_append_drop _ _).symm (by omega) (by omega)
    rw [hcopy, leads_stop] at hev
    rw [hcopy]
    have hbuf : BufInv { s with buf := m } := hev.buf h.bufInv
    refine Running.appended (s := { s with buf := m, dataPort := _, idx := i }) (h.update hbuf h.offset_le) hm hck hio
      h3 hc ?_
    have := writtenBelow_of_find hwr hin fun b hb => hout b (.inl hb)
    rwa [hl, Nat.add_assoc, Nat.add_sub_cancel' hidx] at this

/-! ### One transfer, one symbol -/

/-- t is s after transfers, or while one waits. -/
def TxMoved (s t : State) : Prop :=
  ∃ r l e q, t = { s with txAnswers := r, lastIoStatus := l, events := e, pos := q }

theorem TxMoved.trans {s t u : State} (h1 : TxMoved s t) (h2 : TxMoved t u) : TxMoved s u := by
  obtain ⟨_, _, _, _, rfl⟩ := h1
  obtain ⟨_, _, _, _, rfl⟩ := h2
  exact ⟨_, _, _, _, rfl⟩

theorem TxMoved.of_pos (s : State) (q : Pos) : TxMoved s { s with pos := q } := ⟨_, _, _, _, rfl⟩

/-- A transfer's answer leaves the port for LAST_IO_STATUS. -/
theorem Running.transmitted {a : Status} {rest : List Status} {new : List Event} (h : Running p s)
    (hs : s.txAnswers = a :: rest) : Running p (transmitted s rest a new) := by
  obtain ⟨hwf, hbuf, ho, hr, hf, hbusy, hw⟩ := h
  refine ⟨hwf, hbuf, ho, hr, hf, hbusy, fun hp => ?_⟩
  obtain ⟨hbudget, hexp, hlen, _, htx, hrx⟩ := hw hp
  rw [hs] at htx
  exact ⟨hbudget, hexp, hlen, htx a List.mem_cons_self, fun b hb => htx b (List.mem_cons_of_mem _ hb), hrx⟩

theorem sendByte_keeps {q : Pos} {b : Byte} (h : Running p s) (hw : PhaseInv { s with pos := q }) :
    Keeps p (fun t => Running p t ∧ TxMoved s t ∧ t.pos = .start ∧ 1 ≤ t.lastIoStatus.toInt) (sendByte q b s) := by
  rcases htx : s.txAnswers with _ | ⟨a, rest⟩
  · rw [sendByte_waits htx]
    exact Running.waits (s := { s with pos := q }) h hw
  · have hr := h.transmitted (new := [.tx b a]) htx
    rcases lt_or_ge a.toInt 1 with ha | ha
    · rw [sendByte_refused htx ha]
      exact hr.failed _
    · rw [sendByte_accepted htx ha]
      exact ⟨hr, ⟨_, _, _, _, rfl⟩, rfl, ha⟩

theorem symbolSecond_keeps {b : Byte} (h : Running p s) (hr : reservedByte b = true)
    (hw : ∀ t, TxMoved s t → InSymbol t.pos b → PhaseInv t) :
    Keeps p (fun t => Running p t ∧ TxMoved s t ∧ t.pos = .start) (symbolSecond b s) :=
  (sendByte_keeps h (hw _ (.of_pos s _) (.inr ⟨rfl, hr⟩))).mono fun _ ⟨h1, h2, h3, _⟩ => ⟨h1, h2, h3⟩

theorem symbolFirst_keeps {b : Byte} (h : Running p s) (hw : ∀ t, TxMoved s t → InSymbol t.pos b → PhaseInv t) :
    Keeps p (fun t => Running p t ∧ TxMoved s t ∧ t.pos = .start) (symbolFirst b s) := by
  have first : ∀ c, Keeps p (fun t => Running p t ∧ TxMoved s t ∧ t.pos = .start ∧ 1 ≤ t.lastIoStatus.toInt)
      (sendByte (.txFirst b) c s) := fun c => sendByte_keeps h (hw _ (.of_pos s _) (.inl rfl))
  unfold symbolFirst
  split
  · next hr =>
    refine (first _).andThen fun t ⟨ht, hm, _⟩ => ?_
    exact (symbolSecond_keeps ht hr fun u hu => hw u (hm.trans hu)).mono fun u ⟨h1, h2, h3⟩ => ⟨h1, hm.trans h2, h3⟩
  · exact (first _).mono fun _ ⟨h1, h2, h3, _⟩ => ⟨h1, h2, h3⟩

/-- A StuffAndWrite of the byte c, from its start or from where it waited; CHECKSUM is k once c is accumulated. -/
theorem stuffAndWrite_keeps {b c k : Byte} (h : Running p s)
    (hi : (s.pos = .start ∧ b = c ∧ s.checksum + c = k) ∨ (InSymbol s.pos c ∧ s.checksum = k))
    (hw : ∀ t, TxMoved { s with checksum := k } t → InSymbol t.pos c → PhaseInv t) :
    Keeps p (fun t => Running p t ∧ TxMoved { s with checksum := k } t ∧ t.pos = .start) (stuffAndWrite b s) := by
  rcases hi with ⟨hpos, rfl, rfl⟩ | ⟨hpos | ⟨hpos, hr⟩, rfl⟩
  · rw [stuffAndWrite_start hpos]
    exact symbolFirst_keeps (s := accumulate b s) h hw
  · simp only [stuffAndWrite, hpos]
    exact symbolFirst_keeps h hw
  · simp only [stuffAndWrite, hpos]
    exact symbolSecond_keeps h hr hw

/-! ### The phases of `write_request`, last first -/

theorem txStopPhase_ends (h : Running p s) (hp : s.phase = .txStop) (hi : PhaseInv s) : Ends p (txStopPhase s) := by
  simp only [PhaseInv, hp] at hi
  obtain ⟨hsend, hidx, hpos, hck⟩ := hi
  refine (sendByte_keeps h ?_).andThen fun t ⟨ht, hm, _, hio⟩ => ?_
  · simp only [PhaseInv, hp]
    exact ⟨hsend, hidx, trivial, hck⟩
  · obtain ⟨_, _, _, _, rfl⟩ := hm
    obtain ⟨_, hwriter, _⟩ := hsend
    exact ht.succeeded ⟨rfl, hwriter, hck, hio⟩

/-- TX_CSUM from its start, with the sum of the request in CHECKSUM, or from inside the symbol of its byte. -/
theorem txCsumPhase_ends (h : Running p s) (hp : s.phase = .txCsum) (hsend : SendInv s) (hidx : s.idx = 0)
    (hi : (s.pos = .start ∧ s.checksum = sumBytes (bufPrefix s s.offset.toNat)) ∨
      (InSymbol s.pos (checksumByte (bufPrefix s s.offset.toNat)) ∧ s.checksum = 0xFF)) :
    Ends p (txCsumPhase s) := by
  refine (stuffAndWrite_keeps (c := checksumByte (bufPrefix s s.offset.toNat)) (k := 0xFF) h ?_
    fun t hm ht => ?_).andThen fun t ⟨ht, hm, hpos⟩ => ?_
  · refine hi.imp_left fun ⟨hpos, hck⟩ => ⟨hpos, by rw [hck]; rfl, ?_⟩
    rw [hck]
    exact add_complement _
  · obtain ⟨_, _, _, _, rfl⟩ := hm
    simp only [PhaseInv, hp]
    exact ⟨hsend, hidx, ht, trivial⟩
  · refine txStopPhase_ends (s := toPhase .txStop t) ht rfl ?_
    obtain ⟨_, _, _, _, rfl⟩ := hm
    simp only [PhaseInv, toPhase_phase]
    exact ⟨hsend, rfl, hpos, rfl⟩

/-- TX_BODY has come to BUF[IDX]: at its start, or inside its symbol. -/
def InBody (s : State) : Prop :=
  s.phase = .txBody ∧ SendInv s ∧
  ((s.pos = .start ∧ s.checksum = sumBytes (bufPrefix s s.idx.toNat)) ∨
    (InSymbol s.pos (bufByte s s.idx.toNat) ∧ s.idx.toNat < s.offset.toNat ∧
      s.checksum = sumBytes (bufPrefix s (s.idx.toNat + 1))))

/-- The symbol of BUF[IDX]. -/
theorem bodyByte_keeps (h : Running p s) (hi : InBody s) (hlt : s.idx.toNat < s.offset.toNat) :
    Keeps p (fun t => Running p { t with idx := t.idx + 1 } ∧ InBody { t with idx := t.idx + 1 } ∧
        t.offset = s.offset ∧ (t.idx + 1).toNat = s.idx.toNat + 1)
      (stuffAndWrite (bufByte s s.idx.toNat) s) := by
  obtain ⟨hp, hsend, hpos⟩ := hi
  have hx : (s.idx + 1).toNat = s.idx.toNat + 1 := by
    have := s.offset.isLt
    bv_omega
  refine (stuffAndWrite_keeps (c := bufByte s s.idx.toNat) (k := sumBytes (bufPrefix s (s.idx.toNat + 1))) h ?_
    fun t hm ht => ?_).mono fun t ⟨ht, hm, htpos⟩ => ?_
  · refine hpos.imp (fun ⟨hpos, hck⟩ => ⟨hpos, rfl, ?_⟩) fun ⟨hpos, _, hck⟩ => ⟨hpos, hck⟩
    rw [hck, sumBytes_bufPrefix_succ]
  · obtain ⟨_, _, _, _, rfl⟩ := hm
    simp only [PhaseInv, hp]
    exact ⟨hsend, hlt, ht, rfl⟩
  · obtain ⟨_, _, _, _, rfl⟩ := hm
    refine ⟨ht, ⟨hp, hsend, .inl ⟨htpos, ?_⟩⟩, rfl, hx⟩
    simp only [hx]
    rfl

theorem txBodyLoop_keeps (n : Nat) (h : Running p s) (hi : InBody s) (hn : s.idx.toNat + n = s.offset.toNat) :
    Keeps p (fun t => Running p t ∧ InBody t ∧ t.idx.toNat = t.offset.toNat) (txBodyLoop n s) := by
  induction n generalizing s with
  | zero => exact ⟨h, hi, hn⟩
  | succ n ih =>
    rw [txBodyLoop, readByte_eq _ _ _ (by have := h.offset_le; omega)]
    refine (bodyByte_keeps h hi (by omega)).andThen fun t ⟨ht, hti, ho, hx⟩ => ?_
    refine ih ht hti ?_
    simp only [hx, ho]
    omega

theorem txBodyPhase_ends (h : Running p s) (hi : InBody s) (hn : s.idx.toNat ≤ s.offset.toNat) :
    Ends p (txBodyPhase s) := by
  refine (txBodyLoop_keeps _ h hi (Nat.add_sub_cancel' hn)).andThen fun t ⟨ht, ⟨_, hsend, hpos⟩, hx⟩ => ?_
  refine txCsumPhase_ends (s := toPhase .txCsum t) ht rfl hsend rfl (.inl ?_)
  rcases hpos with ⟨hpos, hck⟩ | ⟨_, hlt, _⟩
  · rw [hx] at hck
    exact ⟨hpos, hck⟩
  · omega

theorem txStartPhase_ends (h : Running p s) (hp : s.phase = .txStart) (hi : PhaseInv s) : Ends p (txStartPhase s) := by
  simp only [PhaseInv, hp] at hi
  obtain ⟨hsend, hidx, hpos, hck⟩ := hi
  refine (sendByte_keeps h ?_).andThen fun t ⟨ht, hm, htpos, _⟩ => ?_
  · simp only [PhaseInv, hp]
    exact ⟨hsend, hidx, trivial, hck⟩
  · obtain ⟨_, _, _, _, rfl⟩ := hm
    exact txBodyPhase_ends (s := toPhase .txBody _) ht ⟨rfl, hsend, .inl ⟨htpos, hck⟩⟩ (Nat.zero_le _)

theorem txCheckPhase_ends (h : Running p s) (hm : s.mode = .build) (hb : BuildInv s) (hpos : s.pos = .start)
    (hcl : s.copyLength = 0) : Ends p (txCheckPhase s) := by
  obtain ⟨_, hck, _, hwr⟩ := hb
  obtain ⟨hcap, _⟩ := h.capacity
  unfold txCheckPhase
  rw [readByte_eq 2 { s with io := .writer } _ hcap]
  split
  · exact Running.failed (s := { s with io := .writer }) _ h
  · next hlen =>
    refine txStartPhase_ends (s := toPhase .txStart { s with io := .writer }) h rfl ?_
    simp only [PhaseInv, toPhase_phase]
    exact ⟨⟨hm, rfl, hcl, not_not.1 hlen, hwr⟩, rfl, hpos, hck⟩

end Sys2Proof.Machine
end

section
/-! PROOFS. The decoder, from a running state: each phase from where it stands ends the operation or waits where the
invariant says. -/

namespace Sys2Proof.Machine

variable {p : Prop} {s : State}

/-! ### Reads and sleeps -/

/-- An un-stuff step is made of reads and of accumulations. -/
theorem gives_unstuff_of {R : State → State → Prop} (htrans : ∀ a b c, R a b → R b c → R a c)
    (hread : ∀ q s, Gives R s (rxByte q s)) (hacc : ∀ b s, R s (accumulate b s)) (s : State) :
    Gives R s (unstuff s) := by
  have second : ∀ u, Gives R u (unstuffSecond u) := by
    intro u
    have h := hread .rxSecond u
    unfold unstuffSecond
    cases hr : rxByte .rxSecond u with
    | waits t => rwa [hr] at h
    | got d t =>
      rw [hr] at h
      dsimp only
      split
      · exact h
      · exact htrans _ _ _ h (hacc _ _)
  have first : ∀ u, Gives R u (unstuffFirst u) := by
    intro u
    have h := hread .start u
    unfold unstuffFirst
    cases hr : rxByte .start u with
    | waits t => rwa [hr] at h
    | got d t =>
      rw [hr] at h
      have h2 := second t
      dsimp only
      split
      · exact h
      · split
        · cases hs : unstuffSecond t with
          | waits v => exact htrans _ _ _ h (by rwa [hs] at h2)
          | got o v => exact htrans _ _ _ h (by rwa [hs] at h2)
        · exact htrans _ _ _ h (hacc _ _)
  unfold unstuff
  split
  · exact second s
  · exact first s
  · exact first s
  · exact first s
  · exact first s

/-- A read takes its status from the port. -/
theorem gives_rxByte_statusesFit (q : Pos) (s : State) :
    Gives (fun s t => StatusesFit s → StatusesFit t) s (rxByte q s) := by
  rcases hrx : s.rxAnswers with _ | ⟨a, rest⟩
  · rw [rxByte_waits hrx]
    exact id
  · rw [rxByte_got hrx]
    rintro ⟨_, htx, hr⟩
    rw [hrx] at hr
    exact ⟨hr a List.mem_cons_self, htx, fun b hb => hr b (List.mem_cons_of_mem _ hb)⟩

theorem gives_unstuff_statusesFit (s : State) :
    Gives (fun s t => StatusesFit s → StatusesFit t) s (unstuff s) :=
  gives_unstuff_of (fun _ _ _ h1 h2 h => h2 (h1 h)) gives_rxByte_statusesFit (fun _ _ h => h) s

/-- Reads leave a running state running. -/
theorem Running.received {t : State} (h : Running p s) (hm : RxMoved s t) (hb : t.budget = s.budget)
    (hst : StatusesFit s → StatusesFit t) : Running p t := by
  obtain ⟨hwf, hbuf, ho, hr, hf, hbusy, hw⟩ := h
  obtain ⟨_, _, _, _, _, _, _, rfl⟩ := hm
  refine ⟨hwf, hbuf, ho, hr, hf, hbusy, fun hp => ?_⟩
  obtain ⟨hbudget, hexp, hlen, hs⟩ := hw hp
  exact ⟨by rwa [hb], hexp, hlen, hst hs⟩

/-- Everything a read can be. -/
theorem Running.rxByte (q : Pos) (h : Running p s) :
    Machine.rxByte q s = .waits { s with pos := q } ∨
    ∃ d t, Machine.rxByte q s = .got d t ∧ Running p t ∧ RxMoved s t ∧ t.pos = .start ∧ t.budget = s.budget ∧
      t.checksum = s.checksum := by
  have hfit := gives_rxByte_statusesFit q s
  rcases rxByte_cases q s with hr | ⟨d, t, hr, hm, hpos, hb, hck⟩
  · exact .inl hr
  · rw [hr] at hfit
    exact .inr ⟨d, t, hr, h.received hm hb hfit, hm, hpos, hb, hck⟩

/-- Everything an un-stuff step can be. -/
theorem Running.unstuff (h : Running p s) (hpos : s.pos = .start ∨ s.pos = .rxSecond) :
    (∃ t, Machine.unstuff s = .waits t ∧ Running p t ∧ RxMoved s t ∧ (t.pos = .start ∨ t.pos = .rxSecond) ∧
      t.budget = s.budget ∧ t.checksum = s.checksum) ∨
    ∃ v t, Machine.unstuff s = .got v t ∧ Running p t ∧ RxMoved s t ∧ t.pos = .start ∧ t.budget = s.budget := by
  have hfit := gives_unstuff_statusesFit s
  rcases unstuff_cases s hpos with ⟨t, hu, hm, hp, hb, hck⟩ | ⟨v, t, hu, hm, hp, hb⟩
  · rw [hu] at hfit
    exact .inl ⟨t, hu, h.received hm hb hfit, hm, hp, hb, hck⟩
  · rw [hu] at hfit
    exact .inr ⟨v, t, hu, h.received hm hb hfit, hm, hp, hb⟩

theorem sleepOne_keeps (h : Running p s) (hw : PhaseInv { s with pos := .sleeping }) :
    Keeps p (fun t => Running p t ∧ ∃ n e, t = { s with sleepAnswers := n, events := e, pos := .start })
      (sleepOne s) := by
  rcases sleepOne_cases s with hs | ⟨n, e, hs⟩
  · rw [hs]
    exact Running.waits (s := { s with pos := .sleeping }) h hw
  · rw [hs]
    exact ⟨h, n, e, rfl⟩

/-! ### The phases of `read_response`, last first -/

theorem rxP7Phase_ends (h : Running p s) (hp : s.phase = .rxP7) (hi : PhaseInv s) : Ends p (rxP7Phase s) := by
  simp only [PhaseInv, hp] at hi
  obtain ⟨hrec, hidx, hpos, hlen, hexp, hck, hst⟩ := hi
  unfold rxP7Phase
  rcases h.rxByte .start with hr | ⟨d, t, hr, ht, hm, htpos, _, htck⟩
  · rw [hr]
    refine Running.waits (s := { s with pos := .start }) h ?_
    simp only [PhaseInv, hp]
    exact ⟨hrec, hidx, trivial, hlen, hexp, hck, hst⟩
  · rw [hr]
    dsimp only
    split
    · exact ht.failed _
    · next hbyte =>
      simp only [Bool.or_eq_true, not_or, noByteStatus_iff, not_le] at hbyte
      obtain ⟨hio, _⟩ := hbyte
      obtain ⟨_, _, _, _, _, _, _, rfl⟩ := hm
      obtain ⟨hreader, _, hwr⟩ := hrec
      exact ht.succeeded ⟨rfl, hreader, htck.trans hck, hio, hlen, hexp, hst, hwr⟩

theorem rxP6Phase_ends (h : Running p s) (hrec : ReceiveInv s) (hpos : s.pos = .start)
    (hlen : s.offset.toNat = s.hdr.dataLen.toNat) (hexp : s.hdr.dataLen.toNat ≤ s.explen.toNat)
    (hck : s.checksum = 0xFF) : Ends p (rxP6Phase s) := by
  unfold rxP6Phase
  split
  · exact h.failed _
  · next hst =>
    refine rxP7Phase_ends (s := toPhase .rxP7 s) h rfl ?_
    simp only [executionError, bne_iff_ne, not_not] at hst
    simp only [PhaseInv, toPhase_phase]
    exact ⟨hrec, rfl, hpos, hlen, hexp, hck, hst⟩

theorem rxP5Phase_ends (h : Running p s) (hp : s.phase = .rxP5) (hi : PhaseInv s) : Ends p (rxP5Phase s) := by
  simp only [PhaseInv, hp] at hi
  obtain ⟨hrec, hidx, hpos, hlen, hexp⟩ := hi
  unfold rxP5Phase
  rcases h.unstuff hpos with ⟨t, hu, ht, hm, htpos, _, _⟩ | ⟨v, t, hu, ht, hm, htpos, _⟩
  · rw [hu]
    refine ht.waits ?_
    obtain ⟨_, _, _, _, _, _, _, rfl⟩ := hm
    simp only [PhaseInv, hp]
    exact ⟨hrec, hidx, htpos, hlen, hexp⟩
  · rw [hu]
    cases v with
    | none => exact ht.failed _
    | some v =>
      dsimp only
      split
      · exact ht.failed _
      · next hck =>
        obtain ⟨_, _, _, _, _, _, _, rfl⟩ := hm
        exact rxP6Phase_ends (s := toPhase .rxP6 _) ht hrec htpos hlen hexp (not_not.1 hck)

/-- Phase 4 stands between two symbols: as while it waits, or with no payload byte still to come. -/
def InPayload (s : State) : Prop :=
  s.phase = .rxP4 ∧ ReceiveInv s ∧ s.idx = 0 ∧ s.offset.toNat ≤ s.hdr.dataLen.toNat ∧
  s.hdr.dataLen.toNat ≤ s.explen.toNat

theorem storePayload_keeps {v : Byte} (h : Running p s) (hi : InPayload s)
    (hlt : s.offset.toNat < s.hdr.dataLen.toNat) (hpos : s.pos = .start) :
    Keeps p (fun t => Running p t ∧ InPayload t ∧ t.pos = .start) (storePayload v s) := by
  obtain ⟨hp, ⟨hreader, hcl, hwr⟩, hidx, _, hexp⟩ := hi
  unfold storePayload
  split
  · exact h.faulted _
  · next hc =>
    rw [memWrite_eq _ _ _ (by omega)]
    have ho : (s.offset + 1).toNat = s.offset.toNat + 1 := by
      have := s.hdr.dataLen.isLt
      bv_omega
    have hset := h.setByte v (Nat.lt_of_not_le hc)
    refine ⟨hset.update hset.bufInv (by rw [setByte_offset, ho]; exact Nat.lt_of_not_le hc),
      ⟨hp, ⟨hreader, hcl, ?_⟩, hidx, ?_, hexp⟩, hpos⟩
    · simp only [setByte_offset, ho]
      exact writtenBelow_setByte_succ hwr
    · simp only [setByte_offset, ho]
      exact hlt

theorem rxP4Loop_keeps (n : Nat) (h : Running p s) (hi : InPayload s) (hpos : s.pos = .start ∨ s.pos = .rxSecond) :
    Keeps p (fun t => Running p t ∧ InPayload t ∧ (t.pos = .start ∨ t.pos = .rxSecond)) (rxP4Loop n s) := by
  induction n generalizing s with
  | zero => exact ⟨h, hi, hpos⟩
  | succ n ih =>
    unfold rxP4Loop
    split
    case isFalse => exact ⟨h, hi, hpos⟩
    case isTrue hgo =>
      obtain ⟨hlt, hbudget⟩ := hgo
      have ⟨hp, hrec, hidx, _, hexp⟩ := hi
      rcases h.unstuff hpos with ⟨t, hu, ht, hm, htpos, htb, _⟩ | ⟨v, t, hu, ht, hm, htpos, htb⟩
      · rw [hu]
        refine ht.waits ?_
        rw [← htb] at hbudget
        obtain ⟨_, _, _, _, _, _, _, rfl⟩ := hm
        simp only [PhaseInv, hp]
        exact ⟨hrec, hidx, .inr ⟨htpos, hbudget⟩, hlt, hexp⟩
      · rw [hu]
        rw [← htb] at hbudget
        obtain ⟨_, _, _, _, _, _, _, rfl⟩ := hm
        cases v with
        | some v => exact (storePayload_keeps ht hi hlt htpos).andThen fun u ⟨hr, hui, hupos⟩ => ih hr hui (.inl hupos)
        | none =>
          dsimp only
          split
          · exact ht.failed _
          · refine (sleepOne_keeps (ht.spent hbudget) ?_).andThen fun u ⟨hr, _, _, hu⟩ => ?_
            · simp only [PhaseInv, spendBudget_phase, hp]
              exact ⟨hrec, hidx, .inl trivial, hlt, hexp⟩
            · subst hu
              exact ih hr hi (.inl rfl)

theorem rxP4Exit_ends (h : Running p s) (hi : InPayload s) (hpos : s.pos = .start ∨ s.pos = .rxSecond) :
    Ends p (rxP4Exit s) := by
  obtain ⟨_, hrec, _, hle, hexp⟩ := hi
  unfold rxP4Exit
  split
  · exact h.failed _
  · next hnlt =>
    refine rxP5Phase_ends (s := toPhase .rxP5 s) h rfl ?_
    simp only [PhaseInv, toPhase_phase]
    exact ⟨hrec, rfl, hpos, Nat.le_antisymm hle (Nat.le_of_not_lt hnlt), hexp⟩

theorem rxP4Phase_ends (h : Running p s) (hi : InPayload s)
    (hpos : (s.pos = .sleeping ∧ s.offset.toNat < s.hdr.dataLen.toNat) ∨ s.pos = .start ∨ s.pos = .rxSecond) :
    Ends p (rxP4Phase s) := by
  suffices hstart : Keeps p (fun t => Running p t ∧ InPayload t ∧ (t.pos = .start ∨ t.pos = .rxSecond))
      (if s.pos = .sleeping then sleepOne s else .go s) from
    hstart.andThen fun t ⟨ht, hti, htpos⟩ => (rxP4Loop_keeps _ ht hti htpos).andThen fun u ⟨hu, hui, hupos⟩ =>
      rxP4Exit_ends hu hui hupos
  rcases hpos with ⟨hpos, hlt⟩ | hpos
  · rw [if_pos hpos]
    refine (sleepOne_keeps h ?_).mono fun t ⟨ht, _, _, hu⟩ => ?_
    · have ⟨hp, hrec, hidx, _, hexp⟩ := hi
      simp only [PhaseInv, hp]
      exact ⟨hrec, hidx, .inl trivial, hlt, hexp⟩
    · subst hu
      exact ⟨ht, hi, .inl rfl⟩
  · rw [if_neg (by rcases hpos with hpos | hpos <;> simp [hpos])]
    exact ⟨h, hi, hpos⟩

theorem rxP3Phase_ends (h : Running p s) (hrec : ReceiveInv s) (ho : s.offset = 0)
    (hpos : s.pos = .start ∨ s.pos = .rxSecond) : Ends p (rxP3Phase s) := by
  unfold rxP3Phase
  split
  · exact h.failed _
  · next hexp =>
    refine rxP4Phase_ends (s := toPhase .rxP4 s) h ⟨rfl, hrec, rfl, ?_, Nat.le_of_not_lt hexp⟩ (.inr hpos)
    rw [toPhase_offset, ho]
    exact Nat.zero_le _

/-- Phase 2 stands between two header symbols. -/
def InHeader (s : State) : Prop := s.phase = .rxP2 ∧ ReceiveInv s ∧ 0 < s.budget.toNat ∧ s.offset = 0

theorem rxP2Loop_keeps (n : Nat) (h : Running p s) (hi : InHeader s) (hpos : s.pos = .start ∨ s.pos = .rxSecond)
    (hn : s.idx.toNat + n = 4) :
    Keeps p (fun t => Running p t ∧ InHeader t ∧ (t.pos = .start ∨ t.pos = .rxSecond)) (rxP2Loop n s) := by
  induction n generalizing s with
  | zero => exact ⟨h, hi, hpos⟩
  | succ n ih =>
    unfold rxP2Loop
    rcases h.unstuff hpos with ⟨t, hu, ht, hm, htpos, htb, _⟩ | ⟨v, t, hu, ht, hm, htpos, htb⟩
    · rw [hu]
      refine ht.waits ?_
      obtain ⟨hp, hrec, hbudget, ho⟩ := hi
      rw [← htb] at hbudget
      obtain ⟨_, _, _, _, _, _, _, rfl⟩ := hm
      simp only [PhaseInv, hp]
      exact ⟨hrec, by omega, htpos, hbudget, ho⟩
    · rw [hu]
      cases v with
      | none => exact ht.failed _
      | some v =>
        obtain ⟨hp, hrec, hbudget, ho⟩ := hi
        rw [← htb] at hbudget
        obtain ⟨_, _, _, _, _, _, _, rfl⟩ := hm
        refine ih ht ⟨hp, hrec, hbudget, ho⟩ (.inl htpos) ?_
        show (s.idx + 1).toNat + n = 4
        bv_omega

theorem rxP2Phase_ends (h : Running p s) (hp : s.phase = .rxP2) (hi : PhaseInv s) : Ends p (rxP2Phase s) := by
  simp only [PhaseInv, hp] at hi
  obtain ⟨hrec, hidx, hpos, hbudget, ho⟩ := hi
  refine (rxP2Loop_keeps _ h ⟨hp, hrec, hbudget, ho⟩ hpos (by omega)).andThen
    fun t ⟨ht, ⟨_, htrec, _, hto⟩, htpos⟩ => ?_
  exact rxP3Phase_ends (s := toPhase .rxP3 t) ht htrec hto htpos

/-- Phase 1 stands between two reads. -/
def InSearch (s : State) : Prop :=
  s.phase = .rxP1 ∧ ReceiveInv s ∧ s.idx = 0 ∧ s.offset = 0 ∧ s.checksum = 0

theorem InSearch.phaseInv (hi : InSearch s) (hpos : s.pos = .start ∨ s.pos = .sleeping) (hb : 0 < s.budget.toNat) :
    PhaseInv s := by
  obtain ⟨hp, hrec, hidx, ho, hck⟩ := hi
  simp only [PhaseInv, hp]
  exact ⟨hrec, hidx, hpos, hb, ho, hck⟩

/-- A Sleep(1) of Phase 1 and its unit of BUDGET. -/
theorem searchSleep_keeps (h : Running p s) (hi : InSearch s) (hb : 0 < s.budget.toNat) :
    Keeps p (fun t => Running p (spendBudget t) ∧ InSearch (spendBudget t) ∧ t.pos = .start ∧ t.budget = s.budget)
      (sleepOne s) := by
  refine (sleepOne_keeps h (InSearch.phaseInv (s := { s with pos := .sleeping }) hi (.inr rfl) hb)).mono
    fun t ⟨ht, _, _, hu⟩ => ?_
  subst hu
  exact ⟨ht.spent hb, hi, rfl, rfl⟩

theorem rxP1Loop_keeps (n : Nat) (h : Running p s) (hi : InSearch s) (hpos : s.pos = .start)
    (hn : s.budget.toNat = n) :
    Keeps p (fun t => Running p t ∧ InSearch t ∧ t.pos = .start ∧ 0 < t.budget.toNat) (rxP1Loop n s) := by
  induction n generalizing s with
  | zero => exact h.failed _
  | succ n ih =>
    have hb : 0 < s.budget.toNat := by omega
    unfold rxP1Loop
    rcases h.rxByte .start with hr | ⟨d, t, hr, ht, hm, htpos, htb, htck⟩
    · rw [hr]
      exact Running.waits (s := { s with pos := .start }) h (InSearch.phaseInv hi (.inl rfl) hb)
    · rw [hr]
      have hti : InSearch t := by
        obtain ⟨hp, hrec, hidx, ho, hck⟩ := hi
        rw [← htck] at hck
        obtain ⟨_, _, _, _, _, _, _, rfl⟩ := hm
        exact ⟨hp, hrec, hidx, ho, hck⟩
      rw [← htb] at hb
      dsimp only
      split
      · exact ht.failed _
      · split
        · refine (searchSleep_keeps ht hti hb).andThen fun u ⟨hu, hui, hupos, hub⟩ => ih hu hui hupos ?_
          rw [spendBudget_budget_toNat (hub ▸ hb), hub, htb]
          omega
        · split
          · exact ht.failed _
          · exact ⟨ht, hti, htpos, hb⟩

theorem rxP1Phase_ends (h : Running p s) (hi : InSearch s)
    (hpos : (s.pos = .sleeping ∧ 0 < s.budget.toNat) ∨ s.pos = .start) : Ends p (rxP1Phase s) := by
  suffices hstart : Keeps p (fun t => Running p t ∧ InSearch t ∧ t.pos = .start)
      (if s.pos = .sleeping then andThen (sleepOne s) fun s => .go (spendBudget s) else .go s) by
    refine hstart.andThen fun t ⟨ht, hti, htpos⟩ => (rxP1Loop_keeps _ ht hti htpos rfl).andThen
      fun u ⟨hu, ⟨_, hrec, _, ho, _⟩, hupos, hub⟩ => ?_
    refine rxP2Phase_ends (s := toPhase .rxP2 u) hu rfl ?_
    simp only [PhaseInv, toPhase_phase]
    exact ⟨hrec, by simp, .inl hupos, hub, ho⟩
  rcases hpos with ⟨hpos, hb⟩ | hpos
  · rw [if_pos hpos]
    exact (searchSleep_keeps h hi hb).andThen fun t ⟨ht, hti, htpos, _⟩ => ⟨ht, hti, htpos⟩
  · rw [if_neg (by simp [hpos])]
    exact ⟨h, hi, hpos⟩

end Sys2Proof.Machine
end

section
/-! PROOFS. Every step keeps the invariant, and with it the widths of R6. -/

namespace Sys2Proof.Machine

section

variable {p : Prop} {s t : State}

/-- A waiting operation goes on to its end or to where it waits next. -/
theorem resume_ends (h : Inv s) (hb : s.busy = true) (hw : p → WidthsKept s) : Ends p (resume s) := by
  have hf : s.fault = .noFault := by
    by_contra hne
    obtain ⟨hidle, _⟩ := h.fault hne
    rw [hb] at hidle
    cases hidle
  have hr : Running p s := ⟨h.config, h.buf, h.offset, h.result, hf, hb, hw⟩
  have hi := h.busy hb
  unfold resume
  cases hp : s.phase with
  | idle => simp only [PhaseInv, hp] at hi
  | copy =>
    simp only [PhaseInv, hp] at hi
    obtain ⟨hm, hpos, hck, hio, h3, hidx, hrest⟩ := hi
    exact copyPhase_ends hr hp ⟨hm, hpos, hck, hio, h3, Nat.le_of_lt hidx, hrest⟩
  | txCheck => simp only [PhaseInv, hp] at hi
  | txStart => exact txStartPhase_ends hr hp hi
  | txBody =>
    simp only [PhaseInv, hp] at hi
    obtain ⟨hsend, hlt, hpos, hck⟩ := hi
    exact txBodyPhase_ends hr ⟨hp, hsend, .inr ⟨hpos, hlt, hck⟩⟩ (Nat.le_of_lt hlt)
  | txCsum =>
    simp only [PhaseInv, hp] at hi
    obtain ⟨hsend, hidx, hpos, hck⟩ := hi
    exact txCsumPhase_ends hr hp hsend hidx (.inr ⟨hpos, hck⟩)
  | txStop => exact txStopPhase_ends hr hp hi
  | rxP1 =>
    simp only [PhaseInv, hp] at hi
    obtain ⟨hrec, hidx, hpos, hbudget, ho, hck⟩ := hi
    exact rxP1Phase_ends hr ⟨hp, hrec, hidx, ho, hck⟩ (hpos.symm.imp_left fun hpos => ⟨hpos, hbudget⟩)
  | rxP2 => exact rxP2Phase_ends hr hp hi
  | rxP3 => simp only [PhaseInv, hp] at hi
  | rxP4 =>
    simp only [PhaseInv, hp] at hi
    obtain ⟨hrec, hidx, hpos, hlt, hexp⟩ := hi
    exact rxP4Phase_ends hr ⟨hp, hrec, hidx, Nat.le_of_lt hlt, hexp⟩
      (hpos.imp (fun hpos => ⟨hpos, hlt⟩) fun ⟨hpos, _⟩ => hpos)
  | rxP5 => exact rxP5Phase_ends hr hp hi
  | rxP6 => simp only [PhaseInv, hp] at hi
  | rxP7 => exact rxP7Phase_ends hr hp hi

/-- An operation that is accepted runs. -/
theorem Inv.accept (h : Inv s) (hf : s.fault = .noFault) (hw : p → WidthsKept s) (q : Phase) :
    Running p (accept q s) :=
  ⟨h.config, h.buf, h.offset, h.result, hf, rfl, hw⟩

theorem Inv.build (h : Inv s) (hb : s.busy = false) (hm : s.mode = .build) : BuildInv s := by
  obtain ⟨_, hmode⟩ := h.idle hb
  simpa only [ModeInv, hm] using hmode

/-- A running state with CHECKSUM and LAST_IO_STATUS cleared. -/
theorem Running.clear (h : Running p s) : Running p { s with checksum := 0, lastIoStatus := 0 } := by
  obtain ⟨hwf, hbuf, ho, hr, hf, hbusy, hw⟩ := h
  refine ⟨hwf, hbuf, ho, hr, hf, hbusy, fun hp => ?_⟩
  obtain ⟨hbudget, hexp, hlen, _, hports⟩ := hw hp
  exact ⟨hbudget, hexp, hlen, signedFits_zero _, hports⟩

/-- The header composer has written n bytes. -/
def Composing (n : Nat) (s : State) : Prop := s.checksum = 0 ∧ s.lastIoStatus = 0 ∧ WrittenBelow s n

theorem headerByte_keeps {n : Nat} {v : Byte} (h : Running p s) (hi : Composing n s) (hn : n < 3) :
    Keeps p (fun t => Running p t ∧ Composing (n + 1) t) (memWrite n v s) := by
  obtain ⟨hck, hio, hwr⟩ := hi
  obtain ⟨hcap, _⟩ := h.capacity
  have hlt := Nat.lt_of_lt_of_le hn hcap
  rw [memWrite_eq n v s hlt]
  exact ⟨h.setByte v hlt, hck, hio, writtenBelow_setByte_succ hwr⟩

theorem beginStream_ends (c a l : Byte) (h : Running p (accept .idle s)) :
    ∃ t, exec (.beginStream c a l) s = .next t ∧ Kept p t := by
  refine Ends.outcome ((headerByte_keeps h.clear ⟨rfl, rfl, fun b hb => absurd hb (Nat.not_lt_zero b)⟩
    (by decide)).andThen fun t ⟨ht, hti⟩ => (headerByte_keeps ht hti (by decide)).andThen fun u ⟨hu, hui⟩ =>
      (headerByte_keeps hu hui (by decide)).andThen fun v ⟨hv, hck, hio, hwr⟩ => ?_)
  obtain ⟨hcap, _⟩ := hv.capacity
  obtain ⟨hwf, hbuf, _, hr, hf, _, hw⟩ := hv
  exact kept_endOperation hwf hbuf hcap hr (fun hne => absurd hf hne) ⟨Nat.le_refl 3, hck, hio, hwr⟩ hw

/-- Every accepted operation ends or waits as the invariant says. -/
theorem exec_kept (i : Instr) (h : Inv s) (hb : s.busy = false) (hf : s.fault = .noFault) (hi : i.wf s.cfg = true)
    (hw : p → WidthsKept s) : ∃ t, exec i s = .next t ∧ Kept p t := by
  have happend : ∀ e, ∃ t, outcome (append e s) = .next t ∧ Kept p t := fun e =>
    (append_ends (h.accept hf hw .idle) (h.build hb)).outcome
  obtain ⟨⟨_, _, _, _, hcl⟩, _⟩ := h.idle hb
  cases i with
  | addU8 v => exact happend _
  | addBool v => exact happend _
  | addU16 v => exact happend _
  | addI16 v => exact happend _
  | addU32 v => exact happend _
  | addI32 v => exact happend _
  | addFloat v => exact happend _
  | addBytes length =>
    refine Ends.outcome (guardAppend_ends (h.accept hf hw .copy) fun hm hc => ?_)
    obtain ⟨h3, hck, hio, hwr⟩ := h.build hb hm
    refine copyPhase_ends (s := copying length s) ⟨h.config, h.buf, h.offset, h.result, hf, rfl, fun hp => ?_⟩ rfl
      ⟨hm, rfl, hck, hio, h3, Nat.zero_le _, hc, hwr⟩
    obtain ⟨hbudget, hexp, _, hst⟩ := hw hp
    exact ⟨hbudget, hexp, of_decide_eq_true hi, hst⟩
  | beginStream c a l => exact beginStream_ends c a l (h.accept hf hw .idle)
  | writeRequest =>
    refine Ends.outcome (f := writeRequest s) ?_
    unfold writeRequest
    split
    · exact kept_endOperation h.config h.buf h.offset h.result (fun _ => rfl) trivial hw
    · next hm =>
      exact txCheckPhase_ends (h.accept hf hw .txCheck) (not_not.1 hm) (h.build hb (not_not.1 hm)) rfl hcl
  | readResponse e limit =>
    refine Ends.outcome (rxP1Phase_ends (s := enterResponse e limit s)
      ⟨h.config, h.buf, Nat.zero_le _, h.result, hf, rfl, fun hp => ?_⟩
      ⟨rfl, ⟨rfl, hcl, fun a ha => absurd ha (Nat.not_lt_zero a)⟩, rfl, rfl, rfl⟩ (.inr rfl))
    obtain ⟨_, _, hlen, _, hports⟩ := hw hp
    simp only [Instr.wf, Bool.and_eq_true, decide_eq_true_eq] at hi
    obtain ⟨hexp, hlimit⟩ := hi
    exact ⟨hlimit, hexp, hlen, signedFits_zero _, hports⟩

/-! ### The steps that run no operation -/

theorem applyReset_kept (h : Inv s) (hw : p → WidthsKept s) : Kept p (applyReset s) := by
  refine ⟨{ config := h.config, buf := ⟨rfl, fun c hc => by cases hc⟩, offset := Nat.zero_le _, result := .inl rfl,
            fault := fun hne => absurd rfl hne, idle := fun _ => ⟨⟨rfl, rfl, rfl, rfl, rfl⟩, trivial⟩,
            busy := fun hb => by cases hb }, fun hp => ?_⟩
  obtain ⟨_, _, _, _, hports⟩ := hw hp
  exact ⟨Nat.two_pow_pos _, Nat.two_pow_pos _, Nat.two_pow_pos _, signedFits_zero _, hports⟩

/-- The host's moves that are still to come are no part of the invariant. -/
theorem Inv.withHost (h : Inv s) (rest : List HostMove) : Inv { s with host := rest } :=
  ⟨h.config, h.buf, h.offset, h.result, h.fault, h.idle, h.busy⟩

theorem modeInv_setByte {a : Nat} {v : Byte} (h : ModeInv s) : ModeInv (setByte a v s) := by
  unfold ModeInv at h ⊢
  rw [setByte_mode]
  cases hm : s.mode with
  | unbound => trivial
  | build =>
    rw [hm] at h
    obtain ⟨h3, hck, hio, hwr⟩ := h
    exact ⟨h3, hck, hio, writtenBelow_setByte hwr⟩
  | sent =>
    rw [hm] at h
    exact h
  | received =>
    rw [hm] at h
    obtain ⟨hr, hio, hck, hst, hlen, hexp, hcode, hwr⟩ := h
    exact ⟨hr, hio, hck, hst, hlen, hexp, hcode, writtenBelow_setByte hwr⟩
  | invalid => trivial

theorem setByte_kept {a : Nat} {v : Byte} (h : Inv s) (hb : s.busy = false) (ha : a < s.cfg.capacity)
    (hw : p → WidthsKept s) : Kept p (setByte a v s) := by
  obtain ⟨hidle, hmode⟩ := h.idle hb
  exact ⟨{ config := h.config, buf := setByte_keeps_buf a v s ha h.buf, offset := h.offset, result := h.result,
           fault := h.fault, idle := fun _ => ⟨hidle, modeInv_setByte hmode⟩,
           busy := fun hbusy => absurd hbusy (by simp [hb]) }, hw⟩

/-- Every step keeps the invariant, and the widths where they are given. -/
theorem step_kept (h : Inv s) (hw : p → WidthsKept s) (hs : step s = .next t) : Kept p t := by
  rcases step_cases s with ⟨_, hc⟩ | ⟨_, hb, hc⟩ | ⟨_, _, hc, _⟩ | ⟨_, hb, a, v, rest, _, hc⟩ |
    ⟨_, _, _, cw, rest, e, _, _, hc⟩ | ⟨_, hb, hf, cw, rest, i, _, hd, hc⟩
  · rw [hs] at hc
    cases hc
    exact applyReset_kept h hw
  · obtain ⟨u, hu, hk⟩ := (resume_ends h hb hw).outcome
    rw [hs, hu] at hc
    cases hc
    exact hk
  · rw [hs] at hc
    cases hc
    exact ⟨h, hw⟩
  · rw [hs] at hc
    rcases memWrite_cases a.toNat v { s with host := rest } with ⟨ha, hm⟩ | ⟨_, hm⟩
    · rw [hm] at hc
      cases hc
      exact setByte_kept (h.withHost rest) hb ha hw
    · rw [hm] at hc
      cases hc
  · rw [hs] at hc
    cases hc
    exact kept_endOperation h.config h.buf h.offset h.result (fun _ => rfl) trivial hw
  · obtain ⟨_, hi⟩ := decodeFor_ok hd
    obtain ⟨u, hu, hk⟩ := exec_kept i (h.withHost rest) hb hf hi hw
    rw [hs, hu] at hc
    cases hc
    exact hk

/-- The invariant gives RESULT its width. -/
theorem Inv.result_fits (h : Inv s) : signedFits s.cfg.statusW s.result := by
  rcases h.result with hr | ⟨e, hr⟩
  · rw [hr]
    exact signedFits_zero _
  · rw [hr]
    exact signedFits_errorCode h.config e

end

end Sys2Proof.Machine

open Sys2Proof Sys2Proof.Machine

/-- Settles O54: each phase of a running operation, and each other step, leaves what the invariant says. -/
theorem everyStepKeepsInv : Obligations.EveryStepKeepsInv := by
  intro s t h hs
  obtain ⟨ht, _⟩ := step_kept (p := False) h False.elim hs
  exact ht

/-- Settles O56: the widths are carried beside the invariant, which itself gives those of OFFSET and RESULT. -/
theorem everyStepKeepsWidths : Obligations.EveryStepKeepsWidths := by
  intro s t h ⟨_, hbudget, hexp, hlen, hio, _⟩ hports hs
  obtain ⟨ht, hw⟩ := step_kept (p := True) h (fun _ => ⟨hbudget, hexp, hlen, hio, hports⟩) hs
  obtain ⟨htbudget, htexp, htlen, htio, htports⟩ := hw trivial
  obtain ⟨_, _, hcap⟩ := capacity_of_wf ht.config
  exact ⟨⟨lt_of_le_of_lt ht.offset hcap, htbudget, htexp, htlen, htio, ht.result_fits⟩, htports⟩
end

section
/-! PROOFS. The statements of 10_state.md that follow from the inversion of the step and from the guards of the
operations: the held fault, the host beside a running operation, MODE, Misuse, and the reset. -/

namespace Sys2Proof.Machine

/-- The guard of `write_request` (R76). -/
theorem writeRequest_misuse {s : State} (h : s.mode ≠ .build) : writeRequest s = .stop (raiseFault .misuse s) :=
  if_pos h

theorem append_misuse {s : State} {e : List Byte} (hi : Idle s) (hf : s.fault = .noFault) (hm : s.mode ≠ .build) :
    append e s = .stop { s with fault := .misuse, mode := .invalid } := by
  unfold append
  rw [guardAppend_misuse (s := accept .idle s) hm, raiseFault_accept hi hf]

/-- With BUSY = 1 and no reset, a step that has a next state continues the operation in progress. -/
theorem evolves_of_busy {s t : State} (hb : s.busy = true) (hr : s.resetInput = false) (h : step s = .next t) :
    Evolves s t :=
  (leads_resume s).next ((step_busy hr hb).symm.trans h)

end Sys2Proof.Machine

open Sys2Proof Sys2Proof.Machine

/-- Settles O8: a command waits, an illegal word or an operation needs FAULT = NO_FAULT, and whatever else a step does
keeps a held fault. -/
theorem heldFaultStaysUntilReset : Obligations.HeldFaultStaysUntilReset := by
  intro s hf hr
  refine ⟨fun cw rest hb hh => step_refused hr hb hh hf, fun t h => ?_⟩
  rcases step_next s t h with ⟨hreset, _⟩ | ⟨_, _, he⟩ |
    ⟨_, _, rfl | ⟨_, _, _, _, _, rfl⟩ | ⟨_, _, _, _, hnone, _⟩ | ⟨_, _, _, _, hnone, _⟩⟩
  · exact absurd hreset (by simp [hr])
  · exact he.fault hf
  · rfl
  · rfl
  · exact absurd hnone hf
  · exact absurd hnone hf

/-- Settles O9: the step continues the operation, which evolves. -/
theorem busyBlockTakesNoHostMove : Obligations.BusyBlockTakesNoHostMove := by
  intro s t hb hr h
  have he := evolves_of_busy hb hr h
  exact ⟨he.host, fun _ => if_pos hb, he.mode⟩

/-- Settles O10: an operation evolves from its acceptance. -/
theorem modeIsWrittenOnlyAtTheEnd : Obligations.ModeIsWrittenOnlyAtTheEnd :=
  fun i s t h => (exec_evolves i s t h).mode

/-- Settles O21: each operation tests MODE before anything else. -/
theorem misuseOutsideBuild : Obligations.MisuseOutsideBuild := by
  intro i s hw hi hf hm
  have happend : ∀ e, outcome (append e s) = .next { s with fault := .misuse, mode := .invalid } :=
    fun e => congrArg outcome (append_misuse hi hf hm)
  cases i with
  | addU8 v => exact happend _
  | addBool v => exact happend _
  | addU16 v => exact happend _
  | addI16 v => exact happend _
  | addU32 v => exact happend _
  | addI32 v => exact happend _
  | addFloat v => exact happend _
  | addBytes length =>
    refine congrArg outcome (?_ : _ = Flow.stop _)
    rw [guardAppend_misuse (s := accept .copy s) hm, raiseFault_accept hi hf]
  | writeRequest =>
    refine congrArg outcome (?_ : _ = Flow.stop _)
    rw [writeRequest_misuse hm, raiseFault_idle hi hf]
  | beginStream c a l => rcases hw with hw | hw <;> cases hw
  | readResponse e n => rcases hw with hw | hw <;> cases hw

/-- Settles O12: the step is `applyReset`. -/
theorem resetInputResetsTheBlock : Obligations.ResetInputResetsTheBlock := by
  intro s hr
  refine ⟨applyReset s, step_reset hr, ?_⟩
  simp [applyReset, State.reset]

/-- Settles O53: at reset BUF is empty, MODE is UNBOUND and nothing runs. -/
theorem resetSatisfiesInv : Obligations.ResetSatisfiesInv where
  config := by decide
  buf := ⟨reset_buf_wf, fun c hc => by cases hc⟩
  offset := Nat.zero_le _
  result := .inl rfl
  fault := fun h => absurd rfl h
  idle := fun _ => ⟨⟨rfl, rfl, rfl, rfl, rfl⟩, trivial⟩
  busy := fun h => by cases h
end

section
/-! PROOFS. Waiting changes no outcome (R25, R40). What a run leaves is compared with what the same run leaves when more
had been on the ports from the start: up to the first request that is not answered they are equal, and from there on
the second run is `resume` of the state in which the first one waits. The lemma of a piece of a phase speaks of the
piece followed by the rest k of the operation: it asks that `resume` of a state in which the piece waits is the piece gone on
with and then k, and that k compares so from every state the piece can leave. -/

namespace Sys2Proof.Machine

/-- More input for the ports, as the arguments of `moreInput`. -/
structure Input where
  data : List Byte
  tx : List Status
  rx : List RxAnswer
  sleeps : Nat

/-- The input added to the ports of s. -/
def Input.onto (x : Input) (s : State) : State := moreInput s x.data x.tx x.rx x.sleeps

/-! The fields an operation tests are not among the ports. -/

@[simp] theorem Input.onto_offset (x : Input) (s : State) : (x.onto s).offset = s.offset := rfl
@[simp] theorem Input.onto_checksum (x : Input) (s : State) : (x.onto s).checksum = s.checksum := rfl
@[simp] theorem Input.onto_lastIoStatus (x : Input) (s : State) : (x.onto s).lastIoStatus = s.lastIoStatus := rfl
@[simp] theorem Input.onto_hdr (x : Input) (s : State) : (x.onto s).hdr = s.hdr := rfl
@[simp] theorem Input.onto_mode (x : Input) (s : State) : (x.onto s).mode = s.mode := rfl
@[simp] theorem Input.onto_idx (x : Input) (s : State) : (x.onto s).idx = s.idx := rfl
@[simp] theorem Input.onto_explen (x : Input) (s : State) : (x.onto s).explen = s.explen := rfl
@[simp] theorem Input.onto_pos (x : Input) (s : State) : (x.onto s).pos = s.pos := rfl
@[simp] theorem Input.onto_cfg (x : Input) (s : State) : (x.onto s).cfg = s.cfg := rfl

/-- The flow f of an operation up to where its answers reach, and its flow f' with x on the ports from the start: both
end alike, or f waits and f' is the continuation of the waiting operation once x has come. -/
inductive Resumes (x : Input) : Flow → Flow → Prop where
  | ends {t : State} (h : t.busy = false) : Resumes x (.stop t) (.stop (x.onto t))
  | waits {t : State} {f : Flow} (h : resume (x.onto t) = f) : Resumes x (.stop t) f
  | bad (f : Fault) : Resumes x (.bad f) (.bad f)

/-- The next state of a step that stopped while its operation runs is the waiting one. -/
theorem Resumes.step_eq {x : Input} {f f' : Flow} {t : State} (h : Resumes x f f') (ho : outcome f = .next t)
    (hb : t.busy = true) (hr : t.resetInput = false) : step (x.onto t) = outcome f' := by
  cases h with
  | ends hend =>
    cases ho
    rw [hb] at hend
    cases hend
  | waits hw =>
    cases ho
    rw [step_busy (s := x.onto t) hr hb, hw]
  | bad e => cases ho

/-! ### Where a waiting operation goes on -/

section

variable {s : State}

theorem resume_copy (h : s.phase = .copy) : resume s = copyPhase s := by simp only [resume, h]

theorem resume_txStart (h : s.phase = .txStart) : resume s = txStartPhase s := by simp only [resume, h]

theorem resume_txBody (h : s.phase = .txBody) : resume s = txBodyPhase s := by simp only [resume, h]

theorem resume_txCsum (h : s.phase = .txCsum) : resume s = txCsumPhase s := by simp only [resume, h]

theorem resume_txStop (h : s.phase = .txStop) : resume s = txStopPhase s := by simp only [resume, h]

theorem resume_rxP1 (h : s.phase = .rxP1) : resume s = rxP1Phase s := by simp only [resume, h]

theorem resume_rxP2 (h : s.phase = .rxP2) : resume s = rxP2Phase s := by simp only [resume, h]

theorem resume_rxP4 (h : s.phase = .rxP4) : resume s = rxP4Phase s := by simp only [resume, h]

theorem resume_rxP5 (h : s.phase = .rxP5) : resume s = rxP5Phase s := by simp only [resume, h]

theorem resume_rxP7 (h : s.phase = .rxP7) : resume s = rxP7Phase s := by simp only [resume, h]

end

section

variable (x : Input) {s : State} {k : State → Flow}

/-! ### The serializer -/

theorem toNat_add_one_of_lt {v : BitVec 16} {n : Nat} (h : v.toNat < n) (hn : n < 65536) :
    (v + 1).toNat = v.toNat + 1 := by
  bv_omega

theorem memWrite_resumes {a : Nat} {v : Byte} (hk : ∀ t, t = setByte a v s → Resumes x (k t) (k (x.onto t))) :
    Resumes x (andThen (memWrite a v s) k) (andThen (memWrite a v (x.onto s)) k) := by
  rcases memWrite_cases a v s with ⟨ha, hw⟩ | ⟨ha, hw⟩
  · rw [hw, memWrite_eq a v (x.onto s) ha]
    exact hk _ rfl
  · have hw' : memWrite a v (x.onto s) = .bad (.noSuchAddress a) := if_neg (Nat.not_lt.2 ha)
    rw [hw, hw']
    exact .bad _

/-- COPY with n data bytes still to come. -/
theorem copyLoop_resumes (n : Nat) (hp : s.phase = .copy) (hn : s.copyLength.toNat - s.idx.toNat = n) :
    Resumes x (copyLoop n s) (copyLoop n (x.onto s)) := by
  induction n generalizing s with
  | zero => exact .ends rfl
  | succ n ih =>
    rcases hd : s.dataPort with _ | ⟨b, rest⟩
    · have hwait : copyLoop (n + 1) s = .stop s := by simp only [copyLoop, hd]
      rw [hwait]
      refine .waits ((resume_copy (s := x.onto s) hp).trans ?_)
      exact congrArg (copyLoop · (x.onto s)) hn
    · have hd' : (x.onto s).dataPort = b :: (rest ++ x.data) := congrArg (· ++ x.data) hd
      simp only [copyLoop, hd, hd']
      refine memWrite_resumes x (s := { s with dataPort := rest }) fun t ht => ?_
      subst ht
      refine ih hp ?_
      have := toNat_add_one_of_lt (v := s.idx) (n := s.copyLength.toNat) (by omega) s.copyLength.isLt
      show s.copyLength.toNat - (s.idx + 1).toNat = n
      omega

/-! ### One transfer, one symbol -/

theorem sendByte_resumes {p : Pos} {b : Byte}
    (hw : resume (x.onto { s with pos := p }) = andThen (sendByte p b (x.onto s)) k)
    (hk : ∀ t, TxMoved s t → Resumes x (k t) (k (x.onto t))) :
    Resumes x (andThen (sendByte p b s) k) (andThen (sendByte p b (x.onto s)) k) := by
  rcases htx : s.txAnswers with _ | ⟨a, rest⟩
  · rw [sendByte_waits htx]
    exact .waits hw
  · have htx' : (x.onto s).txAnswers = a :: (rest ++ x.tx) := congrArg (· ++ x.tx) htx
    rcases lt_or_ge a.toInt 1 with ha | ha
    · rw [sendByte_refused htx ha, sendByte_refused htx' ha]
      exact .ends rfl
    · rw [sendByte_accepted htx ha, sendByte_accepted htx' ha]
      exact hk _ ⟨_, _, _, _, rfl⟩

/-- In a state in which a symbol waits StuffAndWrite goes on with it, whatever byte c it is called with: the position
holds the byte in progress. -/
theorem symbolSecond_resumes {b : Byte}
    (hw : ∀ t, TxMoved s t → ∃ c, resume (x.onto t) = andThen (stuffAndWrite c (x.onto t)) k)
    (hk : ∀ t, TxMoved s t → Resumes x (k t) (k (x.onto t))) :
    Resumes x (andThen (symbolSecond b s) k) (andThen (symbolSecond b (x.onto s)) k) := by
  obtain ⟨c, hc⟩ := hw _ (.of_pos s (.txSecond b))
  exact sendByte_resumes x hc hk

theorem symbolFirst_resumes {b : Byte}
    (hw : ∀ t, TxMoved s t → ∃ c, resume (x.onto t) = andThen (stuffAndWrite c (x.onto t)) k)
    (hk : ∀ t, TxMoved s t → Resumes x (k t) (k (x.onto t))) :
    Resumes x (andThen (symbolFirst b s) k) (andThen (symbolFirst b (x.onto s)) k) := by
  obtain ⟨c, hc⟩ := hw _ (.of_pos s (.txFirst b))
  replace hc : resume (x.onto { s with pos := .txFirst b }) = andThen (symbolFirst b (x.onto s)) k := hc
  unfold symbolFirst at hc ⊢
  split
  · next hr =>
    rw [if_pos hr] at hc
    rw [andThen_assoc] at hc ⊢
    rw [andThen_assoc]
    exact sendByte_resumes x hc fun t ht =>
      symbolSecond_resumes x (fun u hu => hw u (ht.trans hu)) fun u hu => hk u (ht.trans hu)
  · next hr =>
    rw [if_neg hr] at hc
    exact sendByte_resumes x hc hk

theorem stuffAndWrite_resumes {b : Byte}
    (hw : ∀ ck t, TxMoved { s with checksum := ck } t →
      ∃ c, resume (x.onto t) = andThen (stuffAndWrite c (x.onto t)) k)
    (hk : ∀ ck t, TxMoved { s with checksum := ck } t → Resumes x (k t) (k (x.onto t))) :
    Resumes x (andThen (stuffAndWrite b s) k) (andThen (stuffAndWrite b (x.onto s)) k) := by
  have fresh : Resumes x (andThen (symbolFirst b (accumulate b s)) k)
      (andThen (symbolFirst b (x.onto (accumulate b s))) k) := symbolFirst_resumes x (hw _) (hk _)
  unfold stuffAndWrite
  rw [Input.onto_pos]
  cases s.pos with
  | start => exact fresh
  | txFirst c => exact symbolFirst_resumes x (hw s.checksum) (hk s.checksum)
  | txSecond c => exact symbolSecond_resumes x (hw s.checksum) (hk s.checksum)
  | rxSecond => exact fresh
  | sleeping => exact fresh

/-! ### The phases of `write_request`, last first -/

theorem txStopPhase_resumes (hp : s.phase = .txStop) : Resumes x (txStopPhase s) (txStopPhase (x.onto s)) :=
  sendByte_resumes x (resume_txStop (s := x.onto { s with pos := .start }) hp) fun _ _ => .ends rfl

theorem txCsumPhase_resumes (hp : s.phase = .txCsum) : Resumes x (txCsumPhase s) (txCsumPhase (x.onto s)) := by
  refine stuffAndWrite_resumes x (fun ck t ht => ?_) fun ck t _ => txStopPhase_resumes x (s := toPhase .txStop t) rfl
  obtain ⟨_, _, _, _, rfl⟩ := ht
  exact ⟨_, resume_txCsum hp⟩

theorem readByte_resumes {a : Nat} {g g' : Byte → Flow}
    (hg : a < s.cfg.capacity → Resumes x (g (bufByte s a)) (g' (bufByte s a))) :
    Resumes x (readByte a s g) (readByte a (x.onto s) g') := by
  by_cases ha : a < s.cfg.capacity
  · rw [readByte_eq a s g ha, readByte_eq a (x.onto s) g' ha]
    exact hg ha
  · have hbad : ∀ (t : State) (g : Byte → Flow), t.cfg = s.cfg → readByte a t g = .bad (.noSuchAddress a) := by
      intro t g ht
      simp only [readByte, memRead, ht, if_neg ha]
    rw [hbad s g rfl, hbad (x.onto s) g' rfl]
    exact .bad _

theorem andThen_readByte {a : Nat} {g : Byte → Flow} :
    andThen (readByte a s g) k = readByte a s fun b => andThen (g b) k := by
  unfold readByte
  split <;> rfl

/-- The loops of TX_BODY read OFFSET and IDX, which a symbol leaves alone. -/
theorem TxMoved.frame {t : State} {ck : Byte} (h : TxMoved { s with checksum := ck } t) :
    t.phase = s.phase ∧ t.idx = s.idx ∧ t.offset = s.offset ∧ t.cfg = s.cfg := by
  obtain ⟨_, _, _, _, rfl⟩ := h
  exact ⟨rfl, rfl, rfl, rfl⟩

/-- TX_BODY with n bytes still to send, and the phases after it. -/
theorem txBodyLoop_resumes (n : Nat) (hp : s.phase = .txBody) (hn : s.offset.toNat - s.idx.toNat = n) :
    Resumes x (andThen (txBodyLoop n s) fun s => txCsumPhase (toPhase .txCsum s))
      (andThen (txBodyLoop n (x.onto s)) fun s => txCsumPhase (toPhase .txCsum s)) := by
  induction n generalizing s with
  | zero => exact txCsumPhase_resumes x (s := toPhase .txCsum s) rfl
  | succ n ih =>
    simp only [txBodyLoop, andThen_readByte, andThen_assoc]
    refine readByte_resumes x fun ha => stuffAndWrite_resumes x (fun ck t ht => ?_) fun ck t ht => ?_
    · obtain ⟨hphase, hidx, hoff, hcfg⟩ := ht.frame
      have hcap : s.idx.toNat < (x.onto t).cfg.capacity := by rwa [Input.onto_cfg, hcfg]
      refine ⟨bufByte (x.onto t) s.idx.toNat, ?_⟩
      rw [resume_txBody (s := x.onto t) (hphase.trans hp), txBodyPhase, Input.onto_offset, Input.onto_idx, hoff, hidx,
        hn, txBodyLoop, Input.onto_idx, hidx, readByte_eq _ _ _ hcap, andThen_assoc]
    · obtain ⟨hphase, hidx, hoff, _⟩ := ht.frame
      refine ih (s := { t with idx := t.idx + 1 }) (hphase.trans hp) ?_
      have := toNat_add_one_of_lt (v := s.idx) (n := s.offset.toNat) (by omega) s.offset.isLt
      show t.offset.toNat - (t.idx + 1).toNat = n
      rw [hoff, hidx]
      omega

theorem txBodyPhase_resumes (hp : s.phase = .txBody) : Resumes x (txBodyPhase s) (txBodyPhase (x.onto s)) :=
  txBodyLoop_resumes x _ hp rfl

theorem txStartPhase_resumes (hp : s.phase = .txStart) : Resumes x (txStartPhase s) (txStartPhase (x.onto s)) :=
  sendByte_resumes x (resume_txStart (s := x.onto { s with pos := .start }) hp) fun t _ =>
    txBodyPhase_resumes x (s := toPhase .txBody t) rfl

theorem txCheckPhase_resumes : Resumes x (txCheckPhase s) (txCheckPhase (x.onto s)) := by
  refine readByte_resumes x (s := { s with io := .writer }) fun _ => ?_
  rw [Input.onto_offset]
  split
  · exact .ends rfl
  · exact txStartPhase_resumes x (s := toPhase .txStart { s with io := .writer }) rfl

/-! ### Reads and sleeps -/

/-- The result r' of a read with x on the ports from the start, beside r without: the same value, or what the read
`again` gives in the state in which the first one waits. -/
def Rereads {α : Type} (again : State → Got α) (r r' : Got α) : Prop :=
  match r with
  | .waits t => r' = again (x.onto t)
  | .got v t => r' = .got v (x.onto t)

theorem rereads_ite {α : Type} {c : Prop} [Decidable c] {again : State → Got α} {r₁ r₂ r₁' r₂' : Got α}
    (h₁ : Rereads x again r₁ r₁') (h₂ : Rereads x again r₂ r₂') :
    Rereads x again (if c then r₁ else r₂) (if c then r₁' else r₂') := by
  by_cases hc : c
  · rwa [if_pos hc, if_pos hc]
  · rwa [if_neg hc, if_neg hc]

theorem onto_rxAnswers {a : RxAnswer} {rest : List RxAnswer} (h : s.rxAnswers = a :: rest) :
    (x.onto s).rxAnswers = a :: (rest ++ x.rx) :=
  congrArg (· ++ x.rx) h

theorem rxByte_rereads (q : Pos) : Rereads x (rxByte q) (rxByte q s) (rxByte q (x.onto s)) := by
  rcases hrx : s.rxAnswers with _ | ⟨a, rest⟩
  · rw [rxByte_waits hrx]
    rfl
  · rw [rxByte_got hrx, rxByte_got (onto_rxAnswers x hrx)]
    rfl

theorem unstuffSecond_rereads : Rereads x unstuff (unstuffSecond s) (unstuffSecond (x.onto s)) := by
  rcases hrx : s.rxAnswers with _ | ⟨a, rest⟩
  · have hwait : unstuffSecond s = .waits { s with pos := .rxSecond } := by
      simp only [unstuffSecond, rxByte_waits hrx]
    rw [hwait]
    rfl
  · unfold unstuffSecond
    rw [rxByte_got hrx, rxByte_got (onto_rxAnswers x hrx)]
    exact rereads_ite x rfl rfl

theorem unstuffFirst_rereads : Rereads x unstuff (unstuffFirst s) (unstuffFirst (x.onto s)) := by
  rcases hrx : s.rxAnswers with _ | ⟨a, rest⟩
  · have hwait : unstuffFirst s = .waits { s with pos := .start } := by
      simp only [unstuffFirst, rxByte_waits hrx]
    rw [hwait]
    rfl
  · unfold unstuffFirst
    rw [rxByte_got hrx, rxByte_got (onto_rxAnswers x hrx)]
    exact rereads_ite x rfl (rereads_ite x (unstuffSecond_rereads x) rfl)

theorem unstuff_rereads : Rereads x unstuff (unstuff s) (unstuff (x.onto s)) := by
  unfold unstuff
  rw [Input.onto_pos]
  cases s.pos with
  | rxSecond => exact unstuffSecond_rereads x
  | start => exact unstuffFirst_rereads x
  | sleeping => exact unstuffFirst_rereads x
  | txFirst c => exact unstuffFirst_rereads x
  | txSecond c => exact unstuffFirst_rereads x

/-- A read, a sleep or an un-stuff step has left s as t: the loops of the phases go on from what they read in s. -/
structure Listens (s t : State) : Prop where
  phase : t.phase = s.phase
  idx : t.idx = s.idx
  offset : t.offset = s.offset
  hdr : t.hdr = s.hdr
  budget : t.budget = s.budget
  pos : t.pos = .start ∨ t.pos = .rxSecond

theorem RxMoved.listens {t : State} (h : RxMoved s t) (hb : t.budget = s.budget)
    (hp : t.pos = .start ∨ t.pos = .rxSecond) : Listens s t := by
  obtain ⟨_, _, _, _, _, _, _, rfl⟩ := h
  exact ⟨rfl, rfl, rfl, rfl, hb, hp⟩

/-- Everything an un-stuff step can be, with x on the ports from the start and without. -/
theorem unstuff_onto (hp : s.pos = .start ∨ s.pos = .rxSecond) :
    (∃ t, unstuff s = .waits t ∧ unstuff (x.onto s) = unstuff (x.onto t) ∧ Listens s t) ∨
    ∃ v t, unstuff s = .got v t ∧ unstuff (x.onto s) = .got v (x.onto t) ∧ Listens s t := by
  have h := unstuff_rereads x (s := s)
  rcases unstuff_cases s hp with ⟨t, hu, hm, hq, hb, _⟩ | ⟨v, t, hu, hm, hq, hb⟩
  · rw [hu] at h
    exact .inl ⟨t, hu, h, hm.listens hb hq⟩
  · rw [hu] at h
    exact .inr ⟨v, t, hu, h, hm.listens hb (.inl hq)⟩

/-- Everything a read can be, with x on the ports from the start and without. -/
theorem rxByte_onto :
    (rxByte .start s = .waits { s with pos := .start }) ∨
    ∃ d t, rxByte .start s = .got d t ∧ rxByte .start (x.onto s) = .got d (x.onto t) ∧ Listens s t ∧
      t.pos = .start := by
  have h := rxByte_rereads x (s := s) .start
  rcases rxByte_cases .start s with hr | ⟨d, t, hr, hm, hq, hb, _⟩
  · exact .inl hr
  · rw [hr] at h
    exact .inr ⟨d, t, hr, h, hm.listens hb (.inl hq), hq⟩

/-- What follows a Sleep(1) matters only in the states it can leave. -/
theorem andThen_sleepOne_congr {k' : State → Flow} (h : ∀ t, Listens s t → k t = k' t) :
    andThen (sleepOne s) k = andThen (sleepOne s) k' := by
  rcases sleepOne_cases s with hs | ⟨n, e, hs⟩
  · rw [hs]
    rfl
  · rw [hs]
    exact h _ ⟨rfl, rfl, rfl, rfl, rfl, .inl rfl⟩

theorem sleepOne_resumes
    (hw : resume (x.onto { s with pos := .sleeping }) = andThen (sleepOne (x.onto s)) k)
    (hk : ∀ t, Listens s t → t.pos = .start → Resumes x (k t) (k (x.onto t))) :
    Resumes x (andThen (sleepOne s) k) (andThen (sleepOne (x.onto s)) k) := by
  rcases hs : s.sleepAnswers with _ | n
  · have hwait : sleepOne s = .stop { s with pos := .sleeping } := by simp only [sleepOne, hs]
    rw [hwait]
    exact .waits hw
  · have hgo : ∀ (t : State) m, t.sleepAnswers = m + 1 →
        sleepOne t = .go { t with sleepAnswers := m, events := t.events ++ [.sleep], pos := .start } := by
      intro t m ht
      simp only [sleepOne, ht]
    have hs' : (x.onto s).sleepAnswers = (n + x.sleeps) + 1 := by
      show s.sleepAnswers + x.sleeps = _
      omega
    rw [hgo s n hs, hgo (x.onto s) _ hs']
    exact hk _ ⟨rfl, rfl, rfl, rfl, rfl, .inl rfl⟩ rfl

/-! ### The phases of `read_response`, last first -/

theorem rxP7Phase_resumes (hp : s.phase = .rxP7) : Resumes x (rxP7Phase s) (rxP7Phase (x.onto s)) := by
  unfold rxP7Phase
  rcases rxByte_onto x (s := s) with hr | ⟨d, t, hr, hr', _, _⟩
  · rw [hr]
    exact .waits (resume_rxP7 (s := x.onto { s with pos := .start }) hp)
  · rw [hr, hr']
    dsimp only
    rw [Input.onto_lastIoStatus]
    split
    · exact .ends rfl
    · exact .ends rfl

theorem rxP6Phase_resumes : Resumes x (rxP6Phase s) (rxP6Phase (x.onto s)) := by
  unfold rxP6Phase
  rw [Input.onto_hdr]
  split
  · exact .ends rfl
  · exact rxP7Phase_resumes x (s := toPhase .rxP7 s) rfl

theorem rxP5Phase_resumes (hp : s.phase = .rxP5) (hpos : s.pos = .start ∨ s.pos = .rxSecond) :
    Resumes x (rxP5Phase s) (rxP5Phase (x.onto s)) := by
  unfold rxP5Phase
  rcases unstuff_onto x hpos with ⟨t, hu, hu', hl⟩ | ⟨v, t, hu, hu', _⟩
  · rw [hu, hu']
    exact .waits (resume_rxP5 (s := x.onto t) (hl.phase.trans hp))
  · rw [hu, hu']
    cases v with
    | none => exact .ends rfl
    | some b =>
      dsimp only
      rw [Input.onto_checksum]
      split
      · exact .ends rfl
      · exact rxP6Phase_resumes x (s := toPhase .rxP6 t)

theorem storePayload_resumes {v : Byte}
    (hk : ∀ t, t = { setByte s.offset.toNat v s with offset := s.offset + 1 } → Resumes x (k t) (k (x.onto t))) :
    Resumes x (andThen (storePayload v s) k) (andThen (storePayload v (x.onto s)) k) := by
  unfold storePayload
  rw [Input.onto_cfg, Input.onto_offset]
  split
  · exact .ends rfl
  · rw [andThen_assoc, andThen_assoc]
    refine memWrite_resumes x fun t ht => ?_
    subst ht
    exact hk _ rfl

theorem rxP4Exit_resumes (hpos : s.pos = .start ∨ s.pos = .rxSecond) :
    Resumes x (rxP4Exit s) (rxP4Exit (x.onto s)) := by
  unfold rxP4Exit
  rw [Input.onto_offset, Input.onto_hdr]
  split
  · exact .ends rfl
  · exact rxP5Phase_resumes x (s := toPhase .rxP5 s) rfl hpos

/-- Phase 4 from a place that is not its Sleep(1). -/
theorem rxP4Phase_awake (h : s.pos = .start ∨ s.pos = .rxSecond) :
    rxP4Phase s = andThen (rxP4Loop (payloadRounds s) s) rxP4Exit := by
  have hne : s.pos ≠ .sleeping := by
    rcases h with h | h <;> simp [h]
  rw [rxP4Phase, if_neg hne]
  rfl

theorem resume_rxP4_sleeping (h : s.phase = .rxP4) :
    resume { s with pos := .sleeping } =
      andThen (sleepOne s) fun t => andThen (rxP4Loop (payloadRounds t) t) rxP4Exit := by
  rw [resume_rxP4 (by exact h), rxP4Phase, if_pos rfl]
  rfl

/-- Phase 4 makes another round (R90). -/
abbrev PayloadOpen (s : State) : Prop := s.offset.toNat < s.hdr.dataLen.toNat ∧ 0 < s.budget.toNat

theorem rxP4Loop_closed {n : Nat} (h : ¬ PayloadOpen s) : rxP4Loop (n + 1) s = .go s := by
  rw [rxP4Loop, if_neg h]

theorem rxP4Loop_waits {n : Nat} {t : State} (h : PayloadOpen s) (hu : unstuff s = .waits t) :
    rxP4Loop (n + 1) s = .stop t := by
  rw [rxP4Loop, if_pos h, hu]

theorem rxP4Loop_stores {n : Nat} {v : Byte} {t : State} (h : PayloadOpen s) (hu : unstuff s = .got (some v) t) :
    rxP4Loop (n + 1) s = andThen (storePayload v t) (rxP4Loop n) := by
  rw [rxP4Loop, if_pos h, hu]

theorem rxP4Loop_silent {n : Nat} {t : State} (h : PayloadOpen s) (hu : unstuff s = .got none t) :
    rxP4Loop (n + 1) s =
      if errorStatus t.lastIoStatus then .stop (fail .missingStop t)
      else andThen (sleepOne (spendBudget t)) (rxP4Loop n) := by
  rw [rxP4Loop, if_pos h, hu]

/-- What a round does follows from what its un-stuff step gives. -/
theorem rxP4Loop_congr {n : Nat} {t : State} (hs : PayloadOpen s) (ht : PayloadOpen t) (hu : unstuff s = unstuff t) :
    rxP4Loop (n + 1) s = rxP4Loop (n + 1) t := by
  rw [rxP4Loop, rxP4Loop, if_pos hs, if_pos ht, hu]

theorem Listens.payloadOpen {t : State} (hl : Listens s t) (h : PayloadOpen s) : PayloadOpen t := by
  unfold PayloadOpen
  rwa [hl.offset, hl.hdr, hl.budget]

theorem Listens.payloadRounds {t : State} (hl : Listens s t) : payloadRounds t = payloadRounds s := by
  unfold Machine.payloadRounds
  rw [hl.offset, hl.hdr, hl.budget]

/-- A byte stored is a round less to make. -/
theorem payloadRounds_stored {m : Memory} (h : PayloadOpen s) :
    payloadRounds { s with buf := m, offset := s.offset + 1 } + 1 = payloadRounds s := by
  obtain ⟨ho, _⟩ := h
  have hlen := s.hdr.dataLen.isLt
  simp only [payloadRounds, toNat_add_one_of_lt ho (by omega)]
  omega

/-- A unit spent is a round less to make. -/
theorem payloadRounds_spendBudget (h : PayloadOpen s) : payloadRounds (spendBudget s) + 1 = payloadRounds s := by
  obtain ⟨_, hb⟩ := h
  simp only [payloadRounds, spendBudget_budget_toNat hb, spendBudget_hdr, spendBudget_offset]
  omega

/-- The Sleep(1) of a retry, its unit spent, with n rounds still to make. -/
theorem payloadSleep_resumes {n : Nat} (hp : s.phase = .rxP4) (hn : payloadRounds s = n)
    (hk : ∀ t, Listens s t →
      Resumes x (andThen (rxP4Loop n t) rxP4Exit) (andThen (rxP4Loop n (x.onto t)) rxP4Exit)) :
    Resumes x (andThen (sleepOne s) fun t => andThen (rxP4Loop n t) rxP4Exit)
      (andThen (sleepOne (x.onto s)) fun t => andThen (rxP4Loop n t) rxP4Exit) := by
  refine sleepOne_resumes x ?_ fun t hl _ => hk t hl
  refine (resume_rxP4_sleeping (s := x.onto s) hp).trans (andThen_sleepOne_congr fun t hl => ?_)
  rw [hl.payloadRounds.trans hn]

/-- Phase 4 with n rounds still to make, and the phases after it. -/
theorem rxP4Loop_resumes (n : Nat) (hp : s.phase = .rxP4) (hpos : s.pos = .start ∨ s.pos = .rxSecond)
    (hn : payloadRounds s = n) :
    Resumes x (andThen (rxP4Loop n s) rxP4Exit) (andThen (rxP4Loop n (x.onto s)) rxP4Exit) := by
  induction n generalizing s with
  | zero => exact rxP4Exit_resumes x hpos
  | succ n ih =>
    by_cases hopen : PayloadOpen s
    · have hopen' : PayloadOpen (x.onto s) := hopen
      rcases unstuff_onto x hpos with ⟨t, hu, hu', hl⟩ | ⟨v, t, hu, hu', hl⟩
      · have hround : payloadRounds (x.onto t) = n + 1 := hl.payloadRounds.trans hn
        rw [rxP4Loop_waits hopen hu, rxP4Loop_congr hopen' (t := x.onto t) (hl.payloadOpen hopen) hu']
        refine .waits ?_
        rw [resume_rxP4 (s := x.onto t) (hl.phase.trans hp), rxP4Phase_awake (s := x.onto t) hl.pos, hround]
      · have hround : payloadRounds t = n + 1 := hl.payloadRounds.trans hn
        cases v with
        | some b =>
          rw [rxP4Loop_stores hopen hu, rxP4Loop_stores hopen' hu', andThen_assoc, andThen_assoc]
          refine storePayload_resumes x fun u hstored => ?_
          subst hstored
          exact ih (hl.phase.trans hp) hl.pos
            (Nat.succ.inj ((payloadRounds_stored (hl.payloadOpen hopen)).trans hround))
        | none =>
          rw [rxP4Loop_silent hopen hu, rxP4Loop_silent hopen' hu', Input.onto_lastIoStatus]
          split
          · exact .ends rfl
          · rw [andThen_assoc, andThen_assoc]
            have hleft : payloadRounds (spendBudget t) = n :=
              Nat.succ.inj ((payloadRounds_spendBudget (hl.payloadOpen hopen)).trans hround)
            exact payloadSleep_resumes x (s := spendBudget t) (hl.phase.trans hp) hleft fun u hlu =>
              ih (hlu.phase.trans (hl.phase.trans hp)) hlu.pos (hlu.payloadRounds.trans hleft)
    · rw [rxP4Loop_closed hopen, rxP4Loop_closed (s := x.onto s) hopen]
      exact rxP4Exit_resumes x hpos

theorem rxP4Phase_resumes (hp : s.phase = .rxP4) (hpos : s.pos = .start ∨ s.pos = .rxSecond) :
    Resumes x (rxP4Phase s) (rxP4Phase (x.onto s)) := by
  rw [rxP4Phase_awake hpos, rxP4Phase_awake (s := x.onto s) hpos]
  exact rxP4Loop_resumes x _ hp hpos rfl

theorem rxP3Phase_resumes (hpos : s.pos = .start ∨ s.pos = .rxSecond) :
    Resumes x (rxP3Phase s) (rxP3Phase (x.onto s)) := by
  unfold rxP3Phase
  rw [Input.onto_explen, Input.onto_hdr]
  split
  · exact .ends rfl
  · exact rxP4Phase_resumes x (s := toPhase .rxP4 s) rfl hpos

/-- Phase 2 with n header bytes still to come, and the phases after it. -/
theorem rxP2Loop_resumes (n : Nat) (hp : s.phase = .rxP2) (hpos : s.pos = .start ∨ s.pos = .rxSecond)
    (hn : 4 - s.idx.toNat = n) :
    Resumes x (andThen (rxP2Loop n s) fun s => rxP3Phase (toPhase .rxP3 s))
      (andThen (rxP2Loop n (x.onto s)) fun s => rxP3Phase (toPhase .rxP3 s)) := by
  induction n generalizing s with
  | zero => exact rxP3Phase_resumes x (s := toPhase .rxP3 s) hpos
  | succ n ih =>
    rcases unstuff_onto x hpos with ⟨t, hu, hu', hl⟩ | ⟨v, t, hu, hu', hl⟩
    · rw [rxP2Loop, hu]
      refine .waits ?_
      rw [resume_rxP2 (s := x.onto t) (hl.phase.trans hp), rxP2Phase, Input.onto_idx, hl.idx, hn, rxP2Loop, rxP2Loop,
        hu']
    · rw [rxP2Loop, rxP2Loop, hu, hu']
      cases v with
      | none => exact .ends rfl
      | some b =>
        refine ih (s := { t with hdr := setHeaderByte t.idx.toNat b t.hdr, idx := t.idx + 1 }) (hl.phase.trans hp)
          hl.pos ?_
        show 4 - (t.idx + 1).toNat = n
        rw [hl.idx, toNat_add_one_of_lt (n := 4) (by omega) (by omega)]
        omega

theorem rxP2Phase_resumes (hp : s.phase = .rxP2) (hpos : s.pos = .start ∨ s.pos = .rxSecond) :
    Resumes x (rxP2Phase s) (rxP2Phase (x.onto s)) :=
  rxP2Loop_resumes x _ hp hpos rfl

/-- What Phase 1 does from a place that is not its Sleep(1). -/
theorem rxP1Phase_awake (h : s.pos = .start) :
    rxP1Phase s = andThen (rxP1Loop s.budget.toNat s) fun t => rxP2Phase (toPhase .rxP2 t) := by
  have hne : s.pos ≠ .sleeping := by simp [h]
  rw [rxP1Phase, if_neg hne]
  rfl

theorem resume_rxP1_sleeping (h : s.phase = .rxP1) :
    resume { s with pos := .sleeping } = andThen (sleepOne s) fun t =>
      andThen (rxP1Loop (spendBudget t).budget.toNat (spendBudget t)) fun u => rxP2Phase (toPhase .rxP2 u) := by
  rw [resume_rxP1 (by exact h), rxP1Phase, if_pos rfl, andThen_assoc]
  rfl

/-- Phase 1 with n units of BUDGET left, and the phases after it. -/
theorem rxP1Loop_resumes (n : Nat) (hp : s.phase = .rxP1) (hpos : s.pos = .start) (hn : s.budget.toNat = n) :
    Resumes x (andThen (rxP1Loop n s) fun t => rxP2Phase (toPhase .rxP2 t))
      (andThen (rxP1Loop n (x.onto s)) fun t => rxP2Phase (toPhase .rxP2 t)) := by
  induction n generalizing s with
  | zero => exact .ends rfl
  | succ n ih =>
    rcases rxByte_onto x (s := s) with hr | ⟨d, t, hr, hr', hl, hpt⟩
    · have hself : { s with pos := .start } = s := by rw [← hpos]
      have hunits : (x.onto s).budget.toNat = n + 1 := hn
      rw [rxP1Loop, hr, hself]
      refine .waits ?_
      rw [resume_rxP1 (s := x.onto s) hp, rxP1Phase_awake (s := x.onto s) hpos, hunits]
    · have hspent : ∀ u : State, u.budget = t.budget → (spendBudget u).budget.toNat = n := by
        intro u hu
        have hb := congrArg BitVec.toNat (hu.trans hl.budget)
        rw [spendBudget_budget_toNat (by omega)]
        omega
      rw [rxP1Loop, rxP1Loop, hr, hr']
      dsimp only
      rw [Input.onto_lastIoStatus]
      split
      · exact .ends rfl
      · split
        · rw [andThen_assoc, andThen_assoc]
          refine sleepOne_resumes x ?_ fun u hu hpu =>
            ih (s := spendBudget u) (hu.phase.trans (hl.phase.trans hp)) hpu (hspent u hu.budget)
          refine (resume_rxP1_sleeping (s := x.onto t) (hl.phase.trans hp)).trans ?_
          refine andThen_sleepOne_congr fun u hu => ?_
          rw [hspent u hu.budget]
        · split
          · exact .ends rfl
          · exact rxP2Phase_resumes x (s := toPhase .rxP2 t) rfl hl.pos

theorem rxP1Phase_resumes (hp : s.phase = .rxP1) (hpos : s.pos = .start) :
    Resumes x (rxP1Phase s) (rxP1Phase (x.onto s)) := by
  rw [rxP1Phase_awake hpos, rxP1Phase_awake (s := x.onto s) hpos]
  exact rxP1Loop_resumes x _ hp hpos rfl

/-! ### Operations -/

/-- The flow does not stop in a state in which its operation still runs. -/
def NeverWaits (f : Flow) : Prop := ∀ t, outcome f = .next t → t.busy = false

theorem neverWaits_stop {t : State} (h : t.busy = false) : NeverWaits (.stop t) := by
  intro u hu
  cases hu
  exact h

theorem neverWaits_memWrite {a : Nat} {v : Byte} (hk : ∀ t, NeverWaits (k t)) :
    NeverWaits (andThen (memWrite a v s) k) := by
  rcases memWrite_cases a v s with ⟨_, hw⟩ | ⟨_, hw⟩
  · rw [hw]
    exact hk _
  · rw [hw]
    intro t ht
    cases ht

theorem neverWaits_writeBytes {a : Nat} {e : List Byte} (hk : ∀ t, NeverWaits (k t)) :
    NeverWaits (andThen (writeBytes a e s) k) := by
  induction e generalizing a s with
  | nil => exact hk s
  | cons b rest ih =>
    rw [writeBytes, andThen_assoc]
    exact neverWaits_memWrite fun t => ih

theorem neverWaits_append {e : List Byte} : NeverWaits (append e s) := by
  unfold append guardAppend
  split
  · exact neverWaits_stop rfl
  · split
    · exact neverWaits_stop rfl
    · exact neverWaits_writeBytes fun t => neverWaits_stop rfl

theorem guardAppend_resumes {n : Nat} (hk : Resumes x (k s) (k (x.onto s))) :
    Resumes x (guardAppend n s k) (guardAppend n (x.onto s) k) := by
  unfold guardAppend
  rw [Input.onto_mode, Input.onto_offset, Input.onto_cfg]
  split
  · exact .ends rfl
  · split
    · exact .ends rfl
    · exact hk

theorem writeRequest_resumes : Resumes x (writeRequest s) (writeRequest (x.onto s)) := by
  unfold writeRequest
  rw [Input.onto_mode]
  split
  · exact .ends rfl
  · exact txCheckPhase_resumes x (s := accept .txCheck s)

/-- An operation that waits goes on, once x has come, to what it does with x on the ports from the start. -/
theorem step_onto_waiting {i : Instr} {t : State} (h : exec i s = .next t) (hb : t.busy = true)
    (hr : t.resetInput = false) : step (x.onto t) = exec i (x.onto s) := by
  have never : ∀ f, NeverWaits f → outcome f = .next t → step (x.onto t) = exec i (x.onto s) := by
    intro f hf ho
    rw [hf t ho] at hb
    cases hb
  cases i with
  | addU8 v => exact never _ neverWaits_append h
  | addBool v => exact never _ neverWaits_append h
  | addU16 v => exact never _ neverWaits_append h
  | addI16 v => exact never _ neverWaits_append h
  | addU32 v => exact never _ neverWaits_append h
  | addI32 v => exact never _ neverWaits_append h
  | addFloat v => exact never _ neverWaits_append h
  | addBytes length =>
    exact (guardAppend_resumes x (s := accept .copy s)
      (copyLoop_resumes x (s := copying length s) _ rfl rfl)).step_eq h hb hr
  | beginStream c a l =>
    exact never _ (neverWaits_memWrite fun _ => neverWaits_memWrite fun _ => neverWaits_memWrite fun _ =>
      neverWaits_stop rfl) h
  | writeRequest => exact (writeRequest_resumes x).step_eq h hb hr
  | readResponse e limit =>
    exact (rxP1Phase_resumes x (s := enterResponse e limit s) rfl rfl).step_eq h hb hr

end

end Sys2Proof.Machine

open Sys2Proof Sys2Proof.Machine

/-- Settles O60: an operation that waits stands where `resume` goes on with the rest of its phase and with the phases
after it. -/
theorem waitingDoesNotChangeTheOutcome : Obligations.WaitingDoesNotChangeTheOutcome :=
  fun _ _ _ data tx rx sleeps h hb hr => step_onto_waiting ⟨data, tx, rx, sleeps⟩ h hb hr
end

section
/-! PROOFS. The statements of 20_memory.md: the buffer port, the order of the bytes of a wide operand, what every step
keeps of BUF, and that under the invariant only the host can reach past the end of BUF. -/

namespace Sys2Proof.Machine

/-! ### The buffer port -/

theorem hostRead_setByte_same {s : State} {a : BitVec 16} {v : Byte} (hb : s.busy = false)
    (ha : a.toNat < s.cfg.capacity) : hostRead a (setByte a.toNat v s) = some v := by
  simp [hostRead, memRead, hb, ha]

theorem hostRead_outside {s : State} {a : BitVec 16} (ha : s.cfg.capacity ≤ a.toNat) : hostRead a s = none := by
  simp [hostRead, memRead, Nat.not_lt.2 ha]

theorem memWrite_outside {s : State} {a : Nat} {v : Byte} (ha : s.cfg.capacity ≤ a) :
    memWrite a v s = .bad (.noSuchAddress a) :=
  if_neg (Nat.not_lt.2 ha)

/-! ### Operands of more than one byte -/

theorem inOrder_big {c : Config} {l : List Byte} (h : c.byteOrder = .big) : inOrder c l = l := if_pos h

theorem inOrder_little {c : Config} {l : List Byte} (h : c.byteOrder = .little) : inOrder c l = l.reverse :=
  if_neg (by simp [h])

/-- R37: a writer operation whose operand comes with the command word appends it in BYTE_ORDER. -/
theorem writer_appends_inOrder {i : Instr} {s : State} {bytes : List Byte} (hw : isWriter i = true) (hi : Idle s)
    (hm : s.mode = .build) (hc : s.offset.toNat + encodedWidth s.cfg i ≤ s.cfg.capacity) (hd : i.dataCount = 0)
    (hbytes : appendedBytes s.cfg i s.dataPort = inOrder s.cfg bytes) :
    (s.cfg.byteOrder = .big → ∃ t, exec i s = .next t ∧ Appended s t bytes) ∧
    (s.cfg.byteOrder = .little → ∃ t, exec i s = .next t ∧ Appended s t bytes.reverse) := by
  obtain ⟨t, ht, ha⟩ := writer_appends hw hi hm hc (by omega)
  rw [hd, List.drop_zero, hbytes] at ha
  exact ⟨fun hbig => ⟨t, ht, by rwa [inOrder_big hbig] at ha⟩,
    fun hlittle => ⟨t, ht, by rwa [inOrder_little hlittle] at ha⟩⟩

/-! ### Every step -/

/-- A reset empties BUF, the host writes within it, an operation evolves, and nothing else touches it. -/
theorem step_bufInv {s t : State} (hbuf : BufInv s) (h : step s = .next t) : BufInv t := by
  rcases step_next s t h with ⟨_, rfl⟩ | ⟨_, _, he⟩ |
    ⟨_, _, rfl | ⟨a, v, rest, _, ha, rfl⟩ | ⟨_, _, _, _, _, _, rfl⟩ | ⟨_, _, _, _, _, _, he⟩⟩
  · exact ⟨reset_buf_wf, fun c hc => by cases hc⟩
  · exact he.buf hbuf
  · exact hbuf
  · exact setByte_keeps_buf a.toNat v { s with host := rest } ha hbuf
  · exact hbuf
  · exact (exec_evolves _ _ _ he).buf hbuf

/-- Under the invariant an operation that waits or is accepted never leaves BUF, so only the host's write can. -/
theorem Inv.step_has_next {s : State} (h : Inv s)
    (hhost : ∀ a v rest, s.host = .writeBuf a v :: rest → a.toNat < s.cfg.capacity) : ∃ t, step s = .next t := by
  rcases step_cases s with ⟨_, hc⟩ | ⟨_, hb, hc⟩ | ⟨_, _, hc, _⟩ | ⟨_, _, a, v, rest, hh, hc⟩ |
    ⟨_, _, _, cw, rest, e, _, _, hc⟩ | ⟨_, hb, hf, cw, rest, i, _, hd, hc⟩
  · exact ⟨_, hc⟩
  · obtain ⟨t, ht, _⟩ := (resume_ends (p := False) h hb False.elim).outcome
    exact ⟨t, hc.trans ht⟩
  · exact ⟨_, hc⟩
  · rw [memWrite_eq a.toNat v { s with host := rest } (hhost a v rest hh)] at hc
    exact ⟨_, hc⟩
  · exact ⟨_, hc⟩
  · obtain ⟨_, hi⟩ := decodeFor_ok hd
    obtain ⟨t, ht, _⟩ := exec_kept (p := False) i (h.withHost rest) hb hf hi False.elim
    exact ⟨t, hc.trans ht⟩

end Sys2Proof.Machine

open Sys2Proof Sys2Proof.Machine

/-- Settles O11: the step is the write of one byte, or its stop. -/
theorem hostWriteChangesOneByte : Obligations.HostWriteChangesOneByte := by
  intro s a v rest hb hr hh
  rw [step_writeBuf hr hb hh]
  refine ⟨fun ha => ?_, fun ha => ?_⟩
  · rw [memWrite_eq a.toNat v { s with host := rest } ha]
    exact ⟨_, rfl, rfl, hostRead_setByte_same hb ha, bufByte_setByte_same _ _ _,
      fun b hne => bufByte_setByte_other _ _ _ _ hne⟩
  · rw [memWrite_outside (s := { s with host := rest }) ha]
    exact ⟨rfl, hostRead_outside ha⟩

/-- Settles O16: the table of R54 gives both operations the same two slices. -/
theorem sixteenBitAppend : Obligations.SixteenBitAppend := by
  intro s v hi hm hc i hmem
  simp only [List.mem_cons, List.not_mem_nil, or_false] at hmem
  rcases hmem with rfl | rfl
  · exact writer_appends_inOrder rfl hi hm hc rfl rfl
  · exact writer_appends_inOrder rfl hi hm hc rfl rfl

/-- Settles O17: the table of R54 gives both operations the same four slices. -/
theorem thirtyTwoBitAppend : Obligations.ThirtyTwoBitAppend := by
  intro s v hi hm hc i hmem
  simp only [List.mem_cons, List.not_mem_nil, or_false] at hmem
  rcases hmem with rfl | rfl
  · exact writer_appends_inOrder rfl hi hm hc rfl rfl
  · exact writer_appends_inOrder rfl hi hm hc rfl rfl

/-- Settles O55, by the cases of the next state. -/
theorem everyStepKeepsBufCanonical : Obligations.EveryStepKeepsBufCanonical :=
  fun _ _ hbuf h => step_bufInv hbuf h

/-- Settles O57, by the cases of the step. -/
theorem invStepNeverStops : Obligations.InvStepNeverStops :=
  fun _ h hhost => h.step_has_next hhost
end

section
/-! PROOFS. The command word of 30_encoding.md: the decoder and the encoder undo each other, the opcode table says which
words are legal, and the others are refused. -/

namespace Sys2Proof

/-! ### Decoding an encoded word -/

theorem extractLsb'_setWidth_self {m n : Nat} (v : BitVec m) (h : m ≤ n) : (v.setWidth n).extractLsb' 0 m = v := by
  rw [BitVec.extractLsb'_setWidth_of_le (by omega), BitVec.extractLsb'_eq_self]

/-- A field of an operand field, as a number. -/
theorem extractLsb'_eq_of_toNat {n : Nat} {x : BitVec 32} {v : BitVec n} (k : Nat)
    (h : x.toNat / 2 ^ k % 2 ^ n = v.toNat) :
    x.extractLsb' k n = v := by
  apply BitVec.eq_of_toNat_eq
  rw [BitVec.extractLsb'_toNat, Nat.shiftRight_eq_div_pow, h]

/-- The operand fields of an operation's word give the operation back (R57). -/
theorem operation_encode (i : Instr) : operation (opCode i) (operandField i) = some i := by
  cases i with
  | addU8 v => exact congrArg (fun x => some (Instr.addU8 x)) (extractLsb'_setWidth_self v (by decide))
  | addBool v => exact congrArg (fun x => some (Instr.addBool x)) (extractLsb'_setWidth_self v (by decide))
  | addU16 v => exact congrArg (fun x => some (Instr.addU16 x)) (extractLsb'_setWidth_self v (by decide))
  | addI16 v => exact congrArg (fun x => some (Instr.addI16 x)) (extractLsb'_setWidth_self v (by decide))
  | addU32 v => rfl
  | addI32 v => rfl
  | addFloat v => rfl
  | addBytes length => exact congrArg (fun x => some (Instr.addBytes x)) (extractLsb'_setWidth_self length (by decide))
  | beginStream command address dataLength =>
    have hn := operandField_beginStream command address dataLength
    have hc := extractLsb'_eq_of_toNat (v := command) 0 (by rw [hn]; omega)
    have ha := extractLsb'_eq_of_toNat (v := address) 8 (by rw [hn]; omega)
    have hl := extractLsb'_eq_of_toNat (v := dataLength) 16 (by rw [hn]; omega)
    simp [operation, opCode, hc, ha, hl]
  | writeRequest => rfl
  | readResponse e limit =>
    have hn := operandField_readResponse e limit
    have he := extractLsb'_eq_of_toNat (v := e) 0 (by rw [hn]; omega)
    have hl := extractLsb'_eq_of_toNat (v := limit) 8 (by rw [hn]; omega)
    simp [operation, opCode, he, hl]

/-- A word with a known operation, a clear `zero` field and clear unused bits is legal (R58). -/
theorem decode_eq_ok {cw : CommandWord} {i : Instr} (ho : operation (opField cw) (argField cw) = some i)
    (hz : zeroFieldOf cw = 0) (ha : (argField cw).toNat < 2 ^ usedBits (opField cw)) : decode cw = .ok i := by
  simp only [decode, ho]
  rw [if_neg (not_not.2 hz), if_neg (Nat.not_le.2 ha)]

theorem decode_encode (i : Instr) : decode (encode i) = .ok i := by
  apply decode_eq_ok
  · rw [opField_encode, argField_encode]
    exact operation_encode i
  · exact zeroFieldOf_encode i
  · rw [opField_encode, argField_encode]
    exact operandField_lt i

/-! ### Encoding a decoded word -/

theorem opCode_of_operation {op : BitVec 4} {arg : BitVec 32} {i : Instr} (h : operation op arg = some i) :
    opCode i = op := by
  unfold operation at h
  split at h <;> cases h
  all_goals exact BitVec.eq_of_toNat_eq (Eq.symm ‹_›)

/-- The low bits of a number that has no others. -/
theorem setWidth_extractLsb'_zero {x : BitVec 32} (n : Nat) (h : x.toNat < 2 ^ n) :
    (x.extractLsb' 0 n).setWidth 32 = x := by
  apply BitVec.eq_of_toNat_eq
  rw [BitVec.toNat_setWidth, BitVec.extractLsb'_toNat, Nat.shiftRight_zero, Nat.mod_eq_of_lt h, Nat.mod_eq_of_lt x.isLt]

/-- The operand field an operation is read from is that of its word (R57). -/
theorem operandField_of_operation {op : BitVec 4} {arg : BitVec 32} {i : Instr} (h : operation op arg = some i)
    (ha : arg.toNat < 2 ^ usedBits op) : operandField i = arg := by
  have hop := opCode_of_operation h
  subst hop
  cases i with
  | addU8 v => cases h; exact setWidth_extractLsb'_zero 8 ha
  | addBool v => cases h; exact setWidth_extractLsb'_zero 1 ha
  | addU16 v => cases h; exact setWidth_extractLsb'_zero 16 ha
  | addI16 v => cases h; exact setWidth_extractLsb'_zero 16 ha
  | addU32 v => cases h; rfl
  | addI32 v => cases h; rfl
  | addFloat v => cases h; rfl
  | addBytes length => cases h; exact setWidth_extractLsb'_zero 16 ha
  | beginStream command address dataLength =>
    cases h
    apply BitVec.eq_of_toNat_eq
    have : arg.toNat < 2 ^ 24 := ha
    rw [operandField_beginStream]
    simp only [BitVec.extractLsb'_toNat, Nat.shiftRight_eq_div_pow]
    omega
  | writeRequest =>
    apply BitVec.eq_of_toNat_eq
    have : arg.toNat < 2 ^ 0 := ha
    exact (Nat.lt_one_iff.1 this).symm
  | readResponse e limit =>
    cases h
    apply BitVec.eq_of_toNat_eq
    have : arg.toNat < 2 ^ 24 := ha
    rw [operandField_readResponse]
    simp only [BitVec.extractLsb'_toNat, Nat.shiftRight_eq_div_pow]
    omega

theorem encode_decode {cw : CommandWord} {i : Instr} (h : decode cw = .ok i) : encode i = cw := by
  obtain ⟨ho, hz, ha⟩ := decode_ok h
  apply BitVec.eq_of_toNat_eq
  have hz := congrArg BitVec.toNat hz
  rw [zeroFieldOf_toNat] at hz
  rw [encode_toNat, opCode_of_operation ho, operandField_of_operation ho ha, opField_toNat, argField_toNat]
  have : cw.toNat / 2 ^ 32 % 16 = 0 := hz
  omega

/-! ### The legal words -/

theorem opCode_range (i : Instr) : 1 ≤ (opCode i).toNat ∧ (opCode i).toNat ≤ 11 := by
  cases i <;> simp only [opCode] <;> decide

/-- The op codes of the table (R56). -/
theorem operation_isSome_iff (op : BitVec 4) (arg : BitVec 32) :
    (∃ i, operation op arg = some i) ↔ 1 ≤ op.toNat ∧ op.toNat ≤ 11 := by
  constructor
  · rintro ⟨i, h⟩
    rw [← opCode_of_operation h]
    exact opCode_range i
  · rintro ⟨h1, h11⟩
    unfold operation
    interval_cases op.toNat <;> exact ⟨_, rfl⟩

theorem decode_ok_iff (cw : CommandWord) :
    (∃ i, decode cw = .ok i) ↔ (1 ≤ (opField cw).toNat ∧ (opField cw).toNat ≤ 11) ∧ zeroFieldOf cw = 0 ∧
      (argField cw).toNat < 2 ^ usedBits (opField cw) := by
  constructor
  · rintro ⟨i, h⟩
    obtain ⟨ho, hz, ha⟩ := decode_ok h
    exact ⟨(operation_isSome_iff _ _).1 ⟨i, ho⟩, hz, ha⟩
  · rintro ⟨hop, hz, ha⟩
    obtain ⟨i, ho⟩ := (operation_isSome_iff _ (argField cw)).2 hop
    exact ⟨i, decode_eq_ok ho hz ha⟩

theorem decode_error_iff (cw : CommandWord) : (∃ e, decode cw = .error e) ↔ ¬ ∃ i, decode cw = .ok i := by
  cases decode cw <;> simp

/-- A word matches a row when it has the row's op code and the row's other fixed bits are clear. -/
theorem rowOf_matches_iff (i : Instr) (cw : CommandWord) :
    (rowOf i).matches cw = true ↔
      opField cw = opCode i ∧ zeroFieldOf cw = 0 ∧ (argField cw).toNat < 2 ^ usedBits (opCode i) := by
  rw [rowOf_matches, decide_eq_true_eq, ← BitVec.toNat_inj, ← BitVec.toNat_inj, opField_toNat, zeroFieldOf_toNat,
    argField_toNat]
  have := cw.isLt
  cases i <;> simp only [opCode, usedBits] <;> simp <;> omega

/-- A legal word matches the rows of its op code. -/
theorem rowOf_matches_of_decode {cw : CommandWord} {i : Instr} (h : decode cw = .ok i) (j : Instr) :
    (rowOf j).matches cw = decide (opCode j = opCode i) := by
  obtain ⟨ho, hz, ha⟩ := decode_ok h
  have hop := opCode_of_operation ho
  rw [Bool.eq_iff_iff, rowOf_matches_iff, decide_eq_true_eq]
  constructor
  · rintro ⟨hj, _⟩
    rw [← hj, hop]
  · intro hj
    rw [hj, hop]
    exact ⟨rfl, hz, ha⟩

/-- A word that matches a row of the table is legal. -/
theorem decode_ok_of_matches {cw : CommandWord} {j : Instr} (h : (rowOf j).matches cw = true) :
    ∃ i, decode cw = .ok i := by
  obtain ⟨hop, hz, ha⟩ := (rowOf_matches_iff j cw).1 h
  rw [decode_ok_iff, hop]
  exact ⟨opCode_range j, hz, ha⟩

theorem mem_opcodeTable {r : OpRow} (h : r ∈ opcodeTable) : ∃ j, r = rowOf j := by
  simp only [opcodeTable, List.mem_cons, List.not_mem_nil, or_false] at h
  rcases h with h | h | h | h | h | h | h | h | h | h | h <;> exact ⟨_, h⟩

/-- Exactly one row of the table has the op code of an operation. -/
theorem filter_opcodeTable {p : OpRow → Bool} (i : Instr) (hp : ∀ j, p (rowOf j) = decide (opCode j = opCode i)) :
    opcodeTable.filter p = [rowOf i] := by
  simp only [opcodeTable, List.filter_cons, hp, List.filter_nil]
  cases i <;> rfl

/-! ### The illegal words -/

/-- The bits of `arg` from k on are clear when it is below 2^k. -/
theorem extractLsb_ne_zero_iff (cw : CommandWord) (k : Nat) (hk : k ≤ 31) :
    cw.extractLsb 31 k ≠ 0 ↔ ¬ (argField cw).toNat < 2 ^ k := by
  have hsplit : 2 ^ 32 = 2 ^ k * 2 ^ (31 - k + 1) := by
    rw [← pow_add]
    congr 1
    omega
  rw [not_iff_not, ← BitVec.toNat_inj, BitVec.extractLsb_toNat, Nat.shiftRight_eq_div_pow, argField_toNat, hsplit,
    ← Nat.mod_mul_right_div_self]
  exact Nat.div_eq_zero_iff_lt (Nat.two_pow_pos k)

/-- The words that R58 lists are the words without an operation, with a `zero` field that is not 0, or with an unused
bit that is not 0. -/
theorem illegalWord_iff (cw : CommandWord) :
    Machine.IllegalWord cw ↔ ¬ ((1 ≤ (opField cw).toNat ∧ (opField cw).toNat ≤ 11) ∧ zeroFieldOf cw = 0 ∧
      (argField cw).toNat < 2 ^ usedBits (opField cw)) := by
  have hop : cw.extractLsb 39 36 = opField cw := rfl
  have hz : cw.extractLsb 35 32 = zeroFieldOf cw := rfl
  unfold Machine.IllegalWord
  simp only [hop, hz, extractLsb_ne_zero_iff cw 8 (by decide), extractLsb_ne_zero_iff cw 1 (by decide),
    extractLsb_ne_zero_iff cw 16 (by decide), extractLsb_ne_zero_iff cw 24 (by decide),
    extractLsb_ne_zero_iff cw 0 (by decide), ← BitVec.toNat_inj (x := opField cw)]
  have harg := (argField cw).isLt
  by_cases hzero : zeroFieldOf cw = 0
  case neg => exact iff_of_true (.inr (.inr (.inl hzero))) fun ⟨_, h, _⟩ => hzero h
  by_cases hrange : 1 ≤ (opField cw).toNat ∧ (opField cw).toNat ≤ 11
  case neg =>
    have hout : (opField cw).toNat = 0 ∨ 0xC ≤ (opField cw).toNat := by omega
    exact iff_of_true (hout.imp id .inl) fun ⟨h, _⟩ => hrange h
  obtain ⟨h1, h11⟩ := hrange
  simp only [hzero, usedBits]
  interval_cases (opField cw).toNat <;> simp
  all_goals omega

end Sys2Proof

open Sys2Proof Sys2Proof.Machine

/-- Settles O1: the fields of an operation's word are its op code and its operand field, and they give it back. -/
theorem decodeInvertsEncode : Obligations.DecodeInvertsEncode := decode_encode

/-- Settles O2: the fields a legal word is decoded from are those of its operation's word. -/
theorem encodeInvertsDecode : Obligations.EncodeInvertsDecode := fun _ _ h => encode_decode h

/-- Settles O3: a legal word matches the row with its op code alone, and a word that matches any row is legal. -/
theorem everyWordIsOneRowOrIllegal : Obligations.EveryWordIsOneRowOrIllegal := by
  intro cw
  cases hd : decode cw with
  | ok i => exact .inl ⟨i, rfl, filter_opcodeTable i (rowOf_matches_of_decode hd)⟩
  | error e =>
    refine .inr ⟨⟨e, rfl⟩, List.filter_eq_nil_iff.2 fun r hr hm => ?_⟩
    obtain ⟨j, rfl⟩ := mem_opcodeTable hr
    obtain ⟨i, hi⟩ := decode_ok_of_matches hm
    cases hd.symm.trans hi

/-- Settles O4: `decodeFor` refuses the word, and the fault is raised in an idle state. -/
theorem illegalWordRaisesIllegalOp : Obligations.IllegalWordRaisesIllegalOp := by
  intro cw
  have hiff : IllegalWord cw ↔ ∃ e, decode cw = .error e := by
    rw [illegalWord_iff, decode_error_iff, decode_ok_iff]
  refine ⟨hiff, fun s rest ⟨hi, hf, hr⟩ hh hw => ?_⟩
  obtain ⟨e, he⟩ := hiff.1 hw
  have ⟨hb, _⟩ := hi
  rw [step_illegal hr hb hh hf (decodeFor_of_error he)]
  exact congrArg _ (raiseFault_idle (s := { s with host := rest }) hi hf)

/-- Settles O6, by evaluation of the decoder. -/
theorem sampleWordsDecode : Obligations.SampleWordsDecode := by
  unfold Obligations.SampleWordsDecode
  decide
end

section
/-! PROOFS. The symbols and the sums of a frame. -/

namespace Sys2Proof.Machine

/-- A reserved byte, its bit 5 inverted, is not reserved (R49). -/
theorem reservedByte_invertBit5 {b : Byte} (h : reservedByte b = true) : reservedByte (invertBit5 b) = false := by
  simp only [reservedByte, Bool.or_eq_true, beq_iff_eq] at h
  rcases h with ((rfl | rfl) | rfl) | rfl <;> decide

theorem symbol_reserved {b : Byte} (h : reservedByte b = true) : symbol b = [stuffMarker, invertBit5 b] := by
  rw [symbol_eq, if_pos h]

theorem symbol_plain {b : Byte} (h : reservedByte b = false) : symbol b = [b] := by
  rw [symbol_eq, if_neg (by simp [h])]

/-- The three reserved values other than the marker, which never stand on the wire between delimiters. -/
theorem ne_of_not_reserved {b : Byte} (h : reservedByte b = false) :
    b ≠ 0x7E ∧ b ≠ 0x11 ∧ b ≠ 0x13 ∧ b ≠ 0x7D := by
  simp only [reservedByte, Bool.or_eq_false_iff, beq_eq_false_iff_ne] at h
  obtain ⟨⟨⟨h11, h13⟩, h7d⟩, h7e⟩ := h
  exact ⟨h7e, h11, h13, h7d⟩

theorem symbol_no_raw_reserved {b x : Byte} (h : x ∈ symbol b) : x ≠ 0x7E ∧ x ≠ 0x11 ∧ x ≠ 0x13 := by
  have plain : ∀ {y : Byte}, reservedByte y = false → y ≠ 0x7E ∧ y ≠ 0x11 ∧ y ≠ 0x13 := fun hy =>
    let ⟨h7e, h11, h13, _⟩ := ne_of_not_reserved hy
    ⟨h7e, h11, h13⟩
  cases hb : reservedByte b with
  | true =>
    rw [symbol_reserved hb] at h
    rcases List.mem_pair.1 h with rfl | rfl
    · decide
    · exact plain (reservedByte_invertBit5 hb)
  | false =>
    rw [symbol_plain hb, List.mem_singleton] at h
    exact h ▸ plain hb

/-- R50 read on the symbol of a byte gives the byte back. -/
theorem symbol_reads_back (b : Byte) :
    symbol b = [b] ∧ b ≠ 0x7D ∨ ∃ x, symbol b = [0x7D, x] ∧ x ^^^ 0x20 = b ∧ symbol x = [x] := by
  cases hb : reservedByte b with
  | true =>
    refine .inr ⟨invertBit5 b, symbol_reserved hb, ?_, symbol_plain (reservedByte_invertBit5 hb)⟩
    rw [invertBit5, BitVec.xor_assoc, BitVec.xor_self, BitVec.xor_zero]
  | false =>
    obtain ⟨_, _, _, h7d⟩ := ne_of_not_reserved hb
    exact .inl ⟨symbol_plain hb, h7d⟩

/-- The length of the symbols of a list: one byte more for each reserved value. -/
theorem length_stuffed (l : List Byte) : (stuffed l).length = l.length + l.countP reservedByte := by
  induction l with
  | nil => rfl
  | cons b l ih =>
    rw [stuffed_cons, List.length_append, ih, List.countP_cons, List.length_cons]
    cases hb : reservedByte b with
    | true => rw [symbol_reserved hb, if_pos rfl]; simp; omega
    | false => rw [symbol_plain hb, if_neg Bool.false_ne_true]; simp; omega

/-- The bytes of a frame with its checksum byte sum to 0xFF (R61). -/
theorem sumBytes_checksumByte (l : List Byte) : sumBytes (l ++ [checksumByte l]) = 0xFF := by
  rw [sumBytes_append, sumBytes_singleton]
  exact add_complement _

/-- The one last byte with which bytes sum to 0xFF is their checksum byte (R61). -/
theorem eq_checksumByte_of_sumBytes {l : List Byte} {c : Byte} (h : sumBytes (l ++ [c]) = 0xFF) :
    c = checksumByte l := by
  rw [← sumBytes_checksumByte l, sumBytes_append, sumBytes_append, sumBytes_singleton, sumBytes_singleton] at h
  exact BitVec.add_right_inj _ |>.1 h

theorem length_frameOf (l : List Byte) :
    (frameOf l).length = l.length + 3 + (l ++ [checksumByte l]).countP reservedByte := by
  simp only [frameOf, frameWith, List.length_append, length_stuffed, List.length_singleton]
  omega

end Sys2Proof.Machine

open Sys2Proof Sys2Proof.Machine

/-- Settles O27, byte by byte: what R49's table gives for a reserved byte and for another. -/
theorem frameInteriorIsTransparent : Obligations.FrameInteriorIsTransparent := by
  refine ⟨fun bytes x hx => ?_, symbol_reads_back⟩
  obtain ⟨b, _, hb⟩ := List.mem_flatMap.1 hx
  exact symbol_no_raw_reserved hb

/-- Settles O28: the checksum byte is the complement of the sum, and each reserved value costs one byte more. -/
theorem frameSumAndLength : Obligations.FrameSumAndLength := fun bytes =>
  ⟨sumBytes_checksumByte bytes, length_frameOf bytes⟩
end

section
/-! PROOFS. A response that arrives whole: what Phase 1 makes of the opening, Phase 2 of header symbols, Phase 4 of
arrivals, and the phases after them of the checksum byte and the stop delimiter. -/

namespace Sys2Proof.Machine

variable {s : State} {rest : List RxAnswer}

/-! ### Reads in a row -/

@[simp] theorem heard_lastIoStatus (s : State) (r : List RxAnswer) (l : Status) (e : List Event) (c : Byte) :
    (heard s r l e c).lastIoStatus = l := rfl

/-- LAST_IO_STATUS after answers, d being what it holds before them. -/
def statusAfter (d : Status) (answers : List RxAnswer) : Status := (answers.getLast?.map RxAnswer.status).getD d

theorem statusAfter_append (d : Status) (a b : List RxAnswer) :
    statusAfter d (a ++ b) = statusAfter (statusAfter d a) b := by
  cases hb : b.getLast? <;> simp [statusAfter, List.getLast?_append, hb]

/-- After an answer it does not matter what LAST_IO_STATUS held before. -/
theorem statusAfter_eq_lastStatus {answers : List RxAnswer} (d : Status) (h : answers ≠ []) :
    statusAfter d answers = lastStatus answers := by
  obtain ⟨a, ha⟩ := Option.isSome_iff_exists.1 (List.getLast?_isSome.2 h)
  simp [statusAfter, lastStatus, ha]

theorem RxSymbol.answers_ne_nil {x : RxSymbol} (h : x.ok = true) : x.answers ≠ [] := by
  rcases (RxSymbol.ok_iff x).1 h with ⟨a, ha, _⟩ | ⟨m, a, ha, _⟩ <;> simp [ha]

@[simp] theorem symbolsAnswers_cons (x : RxSymbol) (l : List RxSymbol) :
    symbolsAnswers (x :: l) = x.answers ++ symbolsAnswers l := rfl

/-! ### The opening (R87, R88) -/

/-- The start delimiter ends Phase 1. -/
theorem rxP1Loop_start {n : Nat} {start : RxAnswer} (hd : Delivers [start] [0x7E]) (h : s.rxAnswers = start :: rest) :
    rxP1Loop (n + 1) s = .go (heard s rest start.status [.rx start] s.checksum) := by
  obtain ⟨hdata, hpos⟩ := hd
  have hpos := hpos start (List.mem_singleton_self _)
  have hdata : start.data = delimiter := List.singleton_inj.1 hdata
  have hzero : start.status ≠ 0 := fun h0 => by simp [h0] at hpos
  rw [rxP1Loop, rxByte_got h]
  dsimp only
  rw [heard_lastIoStatus, if_neg (errorStatus_nonneg (Int.le_of_lt hpos)), if_neg hzero, if_neg (not_not.2 hdata)]

/-- HDR with bytes written from HDR[k] on. -/
def fillHeader (k : Nat) (bytes : List Byte) (h : RxHeader) : RxHeader :=
  match bytes with
  | [] => h
  | v :: bytes => fillHeader (k + 1) bytes (setHeaderByte k v h)

/-- Four header bytes leave nothing of the old header. -/
theorem fillHeader_headerBytes (h g : RxHeader) : fillHeader 0 (headerBytes h) g = h := rfl

/-- s after header symbols in Phase 2. -/
def headed (s : State) (l : List RxSymbol) (rest : List RxAnswer) : State :=
  { heard s rest (statusAfter s.lastIoStatus (symbolsAnswers l)) (rxEvents (symbolsAnswers l))
      (s.checksum + sumBytes (l.map RxSymbol.value)) with
    hdr := fillHeader s.idx.toNat (l.map RxSymbol.value) s.hdr, idx := s.idx + BitVec.ofNat 16 l.length }

/-- Header symbols in Phase 2. -/
theorem rxP2Loop_symbols (n : Nat) (l : List RxSymbol) (hp : s.pos = .start) (hok : ∀ x ∈ l, x.ok)
    (hi : s.idx.toNat + l.length < 2 ^ 16) (h : s.rxAnswers = symbolsAnswers l ++ rest) :
    rxP2Loop (n + l.length) s = rxP2Loop n (headed s l rest) := by
  induction l generalizing s with
  | nil =>
    refine congrArg _ ?_
    cases s
    simp_all [headed, heard, statusAfter, symbolsAnswers, rxEvents, fillHeader, sumBytes]
  | cons x l ih =>
    have hx := hok x List.mem_cons_self
    rw [List.length_cons] at hi ⊢
    rw [← Nat.add_assoc, rxP2Loop, unstuff_symbol (rest := symbolsAnswers l ++ rest) hp hx
      (by rw [h, symbolsAnswers_cons, List.append_assoc])]
    dsimp only
    have hidx : (s.idx + 1).toNat = s.idx.toNat + 1 := toNat_add_one_of_lt (n := 65535) (by omega) (by decide)
    rw [ih (s := { heard s _ _ _ _ with hdr := _, idx := _ }) rfl (fun y hy => hok y (List.mem_cons_of_mem _ hy))
      (by show (s.idx + 1).toNat + _ < _; omega) rfl]
    refine congrArg _ ?_
    have hlast := statusAfter_eq_lastStatus s.lastIoStatus (RxSymbol.answers_ne_nil hx)
    have hmod : (s.idx.toNat + 1) % 65536 = s.idx.toNat + 1 := Nat.mod_eq_of_lt (by omega)
    have hone : 1#16 + BitVec.ofNat 16 l.length = BitVec.ofNat 16 (l.length + 1) := by
      rw [BitVec.add_comm, BitVec.ofNat_add]
    simp [headed, heard, hmod, hone, hlast, statusAfter_append, fillHeader, sumBytes_cons, rxEvents, BitVec.add_assoc]

/-- Phase 1 on no-data answers, fewer than the budget, and the start delimiter. -/
theorem rxP1Phase_synchronises {z : List RxAnswer} {start : RxAnswer} (hp : s.pos = .start) (hz : AllNoData z)
    (hstart : Delivers [start] [0x7E]) (hbudget : z.length < s.budget.toNat) (hsleep : z.length ≤ s.sleepAnswers)
    (h : s.rxAnswers = z ++ start :: rest) :
    rxP1Phase s = rxP2Phase (toPhase .rxP2
      (heard (retried s z.length (noDataEvents z) (start :: rest)) rest start.status [.rx start] s.checksum)) := by
  obtain ⟨n, hn⟩ : ∃ n, s.budget.toNat = n + 1 + z.length := ⟨s.budget.toNat - z.length - 1, by omega⟩
  rw [rxP1Phase_awake hp, hn, rxP1Loop_retry (n + 1) s z (start :: rest) hp hz hsleep h,
    rxP1Loop_start hstart (rest := rest) rfl]
  rfl

/-- The header of a response has four symbols. -/
theorem length_of_headerBytes {l : List RxSymbol} {h : RxHeader} (hval : l.map RxSymbol.value = headerBytes h) :
    l.length = 4 := by
  simpa [headerBytes] using congrArg List.length hval

/-- Phase 2 on four header symbols. -/
theorem rxP2Phase_header {l : List RxSymbol} {hdr : RxHeader} (hp : s.pos = .start) (hi : s.idx = 0)
    (hok : ∀ x ∈ l, x.ok) (hval : l.map RxSymbol.value = headerBytes hdr)
    (h : s.rxAnswers = symbolsAnswers l ++ rest) :
    rxP2Phase s = rxP3Phase (toPhase .rxP3 (headed s l rest)) := by
  have hlen := length_of_headerBytes hval
  have hloop := rxP2Loop_symbols 0 l hp hok (by rw [hi, hlen]; decide) h
  rw [hlen] at hloop
  rw [rxP2Phase, hi]
  exact congrArg (andThen · fun s => rxP3Phase (toPhase .rxP3 s)) hloop

/-- s when `read_response` has heard the opening o and enters Phase 3. -/
def opened (s : State) (e : Byte) (limit : BitVec 16) (o : Opening) (rest : List RxAnswer) : State :=
  { s with
    offset := 0, checksum := sumBytes (headerBytes o.hdr), lastIoStatus := lastStatus (symbolsAnswers o.header),
    io := .reader, hdr := o.hdr, phase := .rxP3, idx := 0, budget := limit - BitVec.ofNat 16 o.retries, explen := e,
    busy := true, rxAnswers := rest, sleepAnswers := s.sleepAnswers - o.retries, events := s.events ++ o.events,
    pos := .start }

/-- Phases 1 and 2 on an opening, with fewer no-data answers than the budget allows. -/
theorem exec_readResponse_opening {e : Byte} {limit : BitVec 16} {o : Opening} (ho : o.ok)
    (hlimit : o.retries < limit.toNat) (hsleep : o.retries ≤ s.sleepAnswers) (h : s.rxAnswers = o.answers ++ rest) :
    exec (.readResponse e limit) s = outcome (rxP3Phase (opened s e limit o rest)) := by
  obtain ⟨hz, hstart, hok, hval⟩ := ho
  have hfirst : (enterResponse e limit s).rxAnswers = o.noData ++ o.start :: (symbolsAnswers o.header ++ rest) := by
    rw [enterResponse_rxAnswers, h]
    simp [Opening.answers]
  have hne : symbolsAnswers o.header ≠ [] := by
    match o.header, hok, hval with
    | x :: l, hok, _ => simp [RxSymbol.answers_ne_nil (hok x List.mem_cons_self)]
  show outcome (rxP1Phase (enterResponse e limit s)) = _
  rw [rxP1Phase_synchronises (s := enterResponse e limit s) rfl hz hstart hlimit hsleep hfirst,
    rxP2Phase_header (rest := rest) rfl rfl hok hval rfl]
  congr 2
  simp [opened, headed, heard, retried, toPhase, enterResponse, accept, hval, fillHeader_headerBytes,
    statusAfter_eq_lastStatus _ hne, Opening.retries, Opening.events, rxEvents]

/-! ### The payload (R90) -/

theorem toNat_sub_ofNat {x : BitVec 16} {n : Nat} (h : n ≤ x.toNat) :
    (x - BitVec.ofNat 16 n).toNat = x.toNat - n := by
  have := x.isLt
  rw [BitVec.toNat_sub, BitVec.toNat_ofNat]
  omega

/-- BUF with bytes written from an address on. -/
def Memory.putAll (m : Memory) (a : Nat) (bytes : List Byte) : Memory :=
  match bytes with
  | [] => m
  | v :: bytes => Memory.putAll (Memory.put m a v) (a + 1) bytes

theorem writeBytes_putAll {a : Nat} {bytes : List Byte} (h : a + bytes.length ≤ s.cfg.capacity) :
    writeBytes a bytes s = .go { s with buf := Memory.putAll s.buf a bytes } := by
  induction bytes generalizing a s with
  | nil => rfl
  | cons v bytes ih =>
    rw [List.length_cons] at h
    rw [writeBytes, memWrite_eq a v s (by omega)]
    exact ih (s := setByte a v s) (by rw [setByte_cfg]; omega)

/-- What BUF reads as after bytes written from address 0 on. -/
theorem payloadStored_putAll {t : State} {bytes : List Byte} (h : bytes.length ≤ s.cfg.capacity)
    (hb : t.buf = Memory.putAll s.buf 0 bytes) (hr : t.resets = s.resets) : PayloadStored s t bytes := by
  obtain ⟨m, hm, hin, hout, _⟩ := writeBytes_eq 0 bytes s (by omega)
  rw [writeBytes_putAll (by omega), Flow.go.injEq] at hm
  have hbm : t.buf = m := hb.trans (congrArg State.buf hm)
  refine ⟨fun k hk => ?_, fun a ha => ?_⟩
  · have := hin k hk
    rw [Nat.zero_add, ← hbm] at this
    exact bufByte_of_find this
  · unfold bufByte
    rw [hbm, hr, hout a (.inr (by omega))]

/-- A payload byte below CAPACITY is stored at OFFSET. -/
theorem storePayload_fits (v : Byte) (h : s.offset.toNat < s.cfg.capacity) :
    storePayload v s = .go { setByte s.offset.toNat v s with offset := s.offset + 1 } := by
  rw [storePayload, if_neg (Nat.not_le.2 h), memWrite_eq _ _ _ h]
  rfl

@[simp] theorem sumBytes_nil : sumBytes [] = 0 := rfl
@[simp] theorem arrivalAnswers_nil : arrivalAnswers [] = [] := rfl
@[simp] theorem arrivalEvents_nil : arrivalEvents [] = [] := rfl
@[simp] theorem arrivalRetries_nil : arrivalRetries [] = 0 := rfl

@[simp] theorem arrivalAnswers_cons (a : Arrival) (p : List Arrival) :
    arrivalAnswers (a :: p) = retryAnswers a.retries ++ a.symbol.answers ++ arrivalAnswers p := rfl

@[simp] theorem arrivalEvents_cons (a : Arrival) (p : List Arrival) :
    arrivalEvents (a :: p) = retryEvents a.retries ++ rxEvents a.symbol.answers ++ arrivalEvents p := rfl

@[simp] theorem arrivalRetries_cons (a : Arrival) (p : List Arrival) :
    arrivalRetries (a :: p) = a.retries.length + arrivalRetries p := List.sum_cons

theorem Arrival.ok_iff (a : Arrival) : a.ok = true ↔ (∀ r ∈ a.retries, r.ok) ∧ a.symbol.ok = true := by
  rw [Arrival.ok, Bool.and_eq_true, List.all_eq_true]

/-- s after payload bytes that arrived in Phase 4. -/
def arrived (s : State) (p : List Arrival) (rest : List RxAnswer) : State :=
  { s with
    buf := Memory.putAll s.buf s.offset.toNat (p.map Arrival.value), offset := s.offset + BitVec.ofNat 16 p.length,
    checksum := s.checksum + sumBytes (p.map Arrival.value),
    lastIoStatus := statusAfter s.lastIoStatus (arrivalAnswers p),
    budget := s.budget - BitVec.ofNat 16 (arrivalRetries p), rxAnswers := rest,
    sleepAnswers := s.sleepAnswers - arrivalRetries p, events := s.events ++ arrivalEvents p, pos := .start }

theorem arrived_nil (hp : s.pos = .start) (h : s.rxAnswers = rest) : arrived s [] rest = s := by
  cases s
  simp_all [arrived, Memory.putAll, sumBytes, statusAfter, arrivalAnswers, arrivalRetries, arrivalEvents]

/-- Arrivals one after the other. -/
theorem arrived_cons {a : Arrival} {p : List Arrival} {later : List RxAnswer}
    (ho : s.offset.toNat < s.hdr.dataLen.toNat) :
    arrived (arrived s [a] later) p rest = arrived s (a :: p) rest := by
  have hmod : (s.offset.toNat + 1) % 65536 = s.offset.toNat + 1 := by
    have := s.hdr.dataLen.isLt
    omega
  have hlen : 1#16 + BitVec.ofNat 16 p.length = BitVec.ofNat 16 (p.length + 1) := by
    rw [BitVec.add_comm, BitVec.ofNat_add]
  have hbudget : BitVec.ofNat 16 a.retries.length + BitVec.ofNat 16 (arrivalRetries p) =
      BitVec.ofNat 16 (a.retries.length + arrivalRetries p) := (BitVec.ofNat_add _ _).symm
  simp [arrived, Memory.putAll, hmod, hlen, hbudget, sumBytes_cons, ← statusAfter_append, Nat.sub_sub, BitVec.sub_sub,
    BitVec.add_assoc]

/-- One payload byte in Phase 4, after its retries. -/
theorem rxP4Loop_arrival (n : Nat) {a : Arrival} (hp : s.pos = .start) (ha : a.ok = true)
    (ho : s.offset.toNat < s.hdr.dataLen.toNat) (hc : s.offset.toNat < s.cfg.capacity)
    (hb : a.retries.length < s.budget.toNat) (hs : a.retries.length ≤ s.sleepAnswers)
    (h : s.rxAnswers = retryAnswers a.retries ++ a.symbol.answers ++ rest) :
    rxP4Loop (n + 1 + a.retries.length) s = rxP4Loop n (arrived s [a] rest) := by
  obtain ⟨hr, hx⟩ := (Arrival.ok_iff a).1 ha
  rw [rxP4Loop_retry (n + 1) s a.retries (a.symbol.answers ++ rest) hp hr hs (Nat.le_of_lt hb) ho
    (by rw [h, List.append_assoc])]
  have hopen : PayloadOpen (retried s a.retries.length (retryEvents a.retries) (a.symbol.answers ++ rest)) := by
    refine ⟨ho, ?_⟩
    show 0 < (s.budget - BitVec.ofNat 16 a.retries.length).toNat
    rw [toNat_sub_ofNat (Nat.le_of_lt hb)]
    omega
  rw [rxP4Loop_stores hopen (unstuff_symbol (rest := rest) rfl hx rfl), storePayload_fits _ (by exact hc)]
  refine congrArg (rxP4Loop n) ?_
  have hlast : statusAfter s.lastIoStatus (retryAnswers a.retries ++ a.symbol.answers) =
      lastStatus a.symbol.answers := by
    rw [statusAfter_append, statusAfter_eq_lastStatus _ (RxSymbol.answers_ne_nil hx)]
  simp [arrived, heard, retried, setByte, Memory.putAll, arrivalAnswers, arrivalEvents, arrivalRetries, hlast,
    Arrival.value]

/-- Payload bytes in Phase 4, each after its retries, fewer than the budget in all. -/
theorem rxP4Loop_arrivals (n : Nat) {p : List Arrival} (hp : s.pos = .start) (hok : ∀ a ∈ p, a.ok)
    (ho : s.offset.toNat + p.length ≤ s.hdr.dataLen.toNat) (hc : s.offset.toNat + p.length ≤ s.cfg.capacity)
    (hb : arrivalRetries p < s.budget.toNat) (hs : arrivalRetries p ≤ s.sleepAnswers)
    (h : s.rxAnswers = arrivalAnswers p ++ rest) :
    rxP4Loop (n + p.length + arrivalRetries p) s = rxP4Loop n (arrived s p rest) := by
  induction p generalizing s with
  | nil => exact congrArg _ (arrived_nil hp h).symm
  | cons a p ih =>
    rw [List.length_cons] at ho hc
    rw [arrivalRetries_cons] at hb hs
    have hrounds : n + (a :: p).length + arrivalRetries (a :: p) =
        n + p.length + arrivalRetries p + 1 + a.retries.length := by
      rw [arrivalRetries_cons, List.length_cons]
      omega
    have hoff : (s.offset + 1).toNat = s.offset.toNat + 1 := by
      have := s.hdr.dataLen.isLt
      exact toNat_add_one_of_lt (n := s.hdr.dataLen.toNat) (by omega) (by omega)
    have hbudget := toNat_sub_ofNat (x := s.budget) (n := a.retries.length) (by omega)
    rw [hrounds, rxP4Loop_arrival (rest := arrivalAnswers p ++ rest) _ hp (hok a List.mem_cons_self) (by omega)
      (by omega) (by omega) (by omega) (by rw [h, arrivalAnswers_cons, List.append_assoc])]
    rw [ih (s := arrived s [a] (arrivalAnswers p ++ rest)) rfl (fun b hb => hok b (List.mem_cons_of_mem _ hb)) ?_ ?_
      ?_ ?_ rfl, arrived_cons (by omega)]
    · show (s.offset + 1).toNat + p.length ≤ s.hdr.dataLen.toNat
      omega
    · show (s.offset + 1).toNat + p.length ≤ s.cfg.capacity
      omega
    · show arrivalRetries p < (s.budget - BitVec.ofNat 16 a.retries.length).toNat
      omega
    · show arrivalRetries p ≤ s.sleepAnswers - a.retries.length
      omega

/-- Phase 4 on a whole payload. -/
theorem rxP4Phase_arrivals {p : List Arrival} (hp : s.pos = .start) (hok : ∀ a ∈ p, a.ok) (ho : s.offset = 0)
    (hlen : p.length = s.hdr.dataLen.toNat) (hc : p.length ≤ s.cfg.capacity) (hb : arrivalRetries p < s.budget.toNat)
    (hs : arrivalRetries p ≤ s.sleepAnswers) (h : s.rxAnswers = arrivalAnswers p ++ rest) :
    rxP4Phase s = rxP5Phase (toPhase .rxP5 (arrived s p rest)) := by
  have ho0 : s.offset.toNat = 0 := by simp [ho]
  have hdone : (arrived s p rest).offset.toNat = s.hdr.dataLen.toNat := by
    have := s.hdr.dataLen.isLt
    show (s.offset + BitVec.ofNat 16 p.length).toNat = _
    rw [BitVec.toNat_add, ho0, BitVec.toNat_ofNat]
    omega
  have hrounds : payloadRounds s = s.budget.toNat - arrivalRetries p - 1 + 1 + p.length + arrivalRetries p := by
    rw [payloadRounds, ho0]
    omega
  have hclosed : ¬ PayloadOpen (arrived s p rest) := fun ⟨hlt, _⟩ => Nat.ne_of_lt hlt hdone
  have hexit : ¬ (arrived s p rest).offset.toNat < (arrived s p rest).hdr.dataLen.toNat := fun hlt =>
    Nat.ne_of_lt hlt hdone
  rw [rxP4Phase_awake (.inl hp), hrounds, rxP4Loop_arrivals _ hp hok (by omega) (by omega) hb hs h,
    rxP4Loop_closed hclosed, andThen, rxP4Exit, if_neg hexit]

/-- Phases 1 to 4 on an opening and the whole payload it declares. -/
theorem exec_readResponse_payload {e : Byte} {limit : BitVec 16} {o : Opening} {p : List Arrival} (ho : o.ok)
    (hok : ∀ a ∈ p, a.ok) (hlen : p.length = o.hdr.dataLen.toNat) (hexp : o.hdr.dataLen.toNat ≤ e.toNat)
    (hc : o.hdr.dataLen.toNat ≤ s.cfg.capacity) (hlimit : o.retries + arrivalRetries p < limit.toNat)
    (hsleep : o.retries + arrivalRetries p ≤ s.sleepAnswers)
    (h : s.rxAnswers = o.answers ++ (arrivalAnswers p ++ rest)) :
    exec (.readResponse e limit) s = outcome (rxP5Phase (toPhase .rxP5
      (arrived (toPhase .rxP4 (opened s e limit o (arrivalAnswers p ++ rest))) p rest))) := by
  have hbudget := toNat_sub_ofNat (x := limit) (n := o.retries) (by omega)
  rw [exec_readResponse_opening ho (by omega) (by omega) h, rxP3Phase, if_neg (by exact Nat.not_lt.2 hexp),
    rxP4Phase_arrivals (p := p) (rest := rest) rfl hok rfl hlen (by exact hlen ▸ hc) ?_ ?_ rfl]
  · show arrivalRetries p < (limit - BitVec.ofNat 16 o.retries).toNat
    omega
  · show arrivalRetries p ≤ s.sleepAnswers - o.retries
    omega

/-! ### The checksum byte, the state byte, the stop delimiter (R91 to R94) -/

/-- Phase 5 on a checksum byte with which the sum is 0xFF. -/
theorem rxP5Phase_accepts {x : RxSymbol} (hp : s.pos = .start) (hx : x.ok = true) (hsum : s.checksum + x.value = 0xFF)
    (h : s.rxAnswers = x.answers ++ rest) :
    rxP5Phase s =
      rxP6Phase (toPhase .rxP6 (heard s rest (lastStatus x.answers) (rxEvents x.answers) 0xFF)) := by
  rw [rxP5Phase, unstuff_symbol hp hx h, hsum]
  exact if_neg (not_not.2 rfl)

/-- Phase 6 without a sensor error. -/
theorem rxP6Phase_accepts (hst : s.hdr.state &&& 0x7F = 0) : rxP6Phase s = rxP7Phase (toPhase .rxP7 s) := by
  have : ¬ executionError s.hdr.state = true := by
    rw [executionError, hst]
    decide
  rw [rxP6Phase, if_neg this]

/-- Phase 7 on the stop delimiter. -/
theorem rxP7Phase_stops {stop : RxAnswer} (hd : Delivers [stop] [0x7E]) (h : s.rxAnswers = stop :: rest) :
    rxP7Phase s = .stop (returnSuccess .received (heard s rest stop.status [.rx stop] s.checksum)) := by
  obtain ⟨hdata, hpos⟩ := hd
  have hpos := hpos stop (List.mem_singleton_self _)
  have hdata : stop.data = delimiter := List.singleton_inj.1 hdata
  rw [rxP7Phase, rxByte_got h]
  dsimp only
  rw [if_neg (by simp [noByteStatus_pos hpos, hdata])]

end Sys2Proof.Machine

open Sys2Proof Sys2Proof.Machine

/-- Settles O35, phase by phase on what arrives. -/
theorem readResponseReceives : Obligations.ReadResponseReceives := by
  intro s e limit o p c stop rest hidle ho hok hlen hexp hc hst hcok hcv hstop hlimit hsleep h
  have hsum : sumBytes (headerBytes o.hdr) + sumBytes (p.map Arrival.value) + c.value = 0xFF := by
    rw [← sumBytes_append, hcv, ← sumBytes_singleton (checksumByte _), ← sumBytes_append]
    exact sumBytes_checksumByte _
  rw [exec_readResponse_payload (rest := c.answers ++ (stop :: rest)) ho hok hlen hexp hc hlimit hsleep
      (by rw [h]; simp), rxP5Phase_accepts (rest := stop :: rest) rfl hcok hsum rfl, rxP6Phase_accepts (by exact hst),
    rxP7Phase_stops (rest := rest) hstop rfl]
  refine ⟨_, rfl, ?_, payloadStored_putAll (by simpa [hlen] using hc) rfl rfl⟩
  obtain ⟨hbusy, hphase, hidx, hpos, hcopy⟩ := hidle
  cases s
  simp_all [returnSuccess, endOperation, heard, toPhase, arrived, opened, rxEvents, Nat.sub_sub, BitVec.sub_sub,
    BitVec.ofNat_add]
end

section
/-! PROOFS. However the transport answers: what a `read_response` in progress has heard so far, carried through its
phases to each of its ends. -/

namespace Sys2Proof.Machine

/-! ### What answers bring -/

/-- The answers bring these bytes, un-stuffed, and end where a symbol ends: what follows them is read afresh. -/
def Brings (answers : List RxAnswer) (bytes : List Byte) : Prop :=
  ∀ rest, unstuffedBytes (answers ++ rest) = bytes ++ unstuffedBytes rest

theorem brings_nil : Brings [] [] := fun _ => rfl

theorem Brings.append {a a' : List RxAnswer} {b b' : List Byte} (h : Brings a b) (h' : Brings a' b') :
    Brings (a ++ a') (b ++ b') := fun rest => by
  rw [List.append_assoc, h, h', List.append_assoc]

theorem Brings.unstuffedBytes_eq {a : List RxAnswer} {b : List Byte} (h : Brings a b) : unstuffedBytes a = b := by
  have := h []
  rwa [List.append_nil, show unstuffedBytes [] = [] from rfl, List.append_nil] at this

theorem RxSymbol.brings {x : RxSymbol} (h : x.ok = true) : Brings x.answers [x.value] := by
  intro rest
  rcases (RxSymbol.ok_iff x).1 h with ⟨a, hx, ha, hd, hv⟩ | ⟨m, a, hx, hm, hmd, ha, hv⟩
  · rw [hx, ← hv]
    show unstuffedFrom false (a :: rest) = a.data :: unstuffedFrom false rest
    rw [unstuffedFrom, if_neg (Int.not_le.2 ha), if_neg Bool.false_ne_true, if_neg hd]
  · rw [hx, ← hv]
    simp [unstuffedBytes, unstuffedFrom, Int.not_le.2 hm, Int.not_le.2 ha, hmd]

theorem BrokenSymbol.brings {c : List RxAnswer} (h : BrokenSymbol c) : Brings c [] := by
  intro rest
  rcases h with ⟨a, rfl, ha⟩ | ⟨m, a, rfl, hm, hmd, ha⟩
  · simp [unstuffedBytes, unstuffedFrom, ha]
  · simp [unstuffedBytes, unstuffedFrom, Int.not_le.2 hm, ha, hmd]

/-- Everything an un-stuff step can be: the answers it takes bring the byte it gives. -/
theorem unstuff_brings {u : State} (hp : u.pos = .start) :
    (∃ t, unstuff u = .waits t ∧ t.busy = u.busy) ∨
    ∃ v c rest last, unstuff u = .got v (heard u rest last (rxEvents c) (u.checksum + sumBytes v.toList)) ∧
      Brings c v.toList := by
  have symbol : ∀ (x : RxSymbol) rest, x.ok = true → u.rxAnswers = x.answers ++ rest →
      ∃ v c rest last, unstuff u = .got v (heard u rest last (rxEvents c) (u.checksum + sumBytes v.toList)) ∧
        Brings c v.toList := fun x rest hx h =>
    ⟨some x.value, x.answers, rest, _, by rw [unstuff_symbol hp hx h, Option.toList_some, sumBytes_singleton],
      RxSymbol.brings hx⟩
  have broken : ∀ c rest, BrokenSymbol c → u.rxAnswers = c ++ rest →
      ∃ v c rest last, unstuff u = .got v (heard u rest last (rxEvents c) (u.checksum + sumBytes v.toList)) ∧
        Brings c v.toList := fun c rest hc h =>
    ⟨none, c, rest, lastStatus c, by rw [unstuff_broken hp hc h]; simp,
      BrokenSymbol.brings hc⟩
  rcases hrx : u.rxAnswers with _ | ⟨a, rest⟩
  · exact .inl ⟨{ u with pos := .start }, by rw [unstuff_start hp, unstuffFirst, rxByte_waits hrx], rfl⟩
  by_cases ha : a.status.toInt ≤ 0
  · exact .inr (broken [a] rest (.inl ⟨a, rfl, ha⟩) hrx)
  have ha := Int.not_le.1 ha
  by_cases hd : a.data = 0x7D
  case neg => exact .inr (symbol ⟨[a], a.data⟩ rest ((RxSymbol.ok_iff _).2 (.inl ⟨a, rfl, ha, hd, rfl⟩)) hrx)
  rcases rest with _ | ⟨b, rest⟩
  · refine .inl ⟨{ heard u [] a.status [.rx a] u.checksum with pos := .rxSecond }, ?_, rfl⟩
    rw [unstuff_start hp, unstuffFirst, rxByte_got hrx]
    dsimp only
    rw [heard_lastIoStatus, if_neg (noByteStatus_pos ha), if_pos (by exact hd), unstuffSecond, rxByte_waits rfl]
    rfl
  by_cases hb : b.status.toInt ≤ 0
  · exact .inr (broken [a, b] rest (.inr ⟨a, b, rfl, ha, hd, hb⟩) hrx)
  · exact .inr (symbol ⟨[a, b], b.data ^^^ 0x20⟩ rest
      ((RxSymbol.ok_iff _).2 (.inr ⟨a, b, rfl, ha, hd, Int.not_le.1 hb, rfl⟩)) hrx)

/-- Everything a Sleep(1) can be, with its event. -/
theorem sleepOne_event (u : State) :
    sleepOne u = .stop { u with pos := .sleeping } ∨
    ∃ n, sleepOne u = .go { u with sleepAnswers := n, events := u.events ++ [.sleep], pos := .start } := by
  unfold sleepOne
  split
  · exact .inl rfl
  · exact .inr ⟨_, rfl⟩

/-! ### The operation in progress, and its ends -/

/-- The `read_response` accepted in s has come to u, at the start of a read or between two lines, and its reads have
got these answers. -/
structure Underway (s : State) (e : Byte) (limit : BitVec 16) (answers : List RxAnswer) (u : State) : Prop where
  busy : u.busy = true
  pos : u.pos = .start
  io : u.io = .reader
  explen : u.explen = e
  result : u.result = s.result
  fault : u.fault = s.fault
  cfg : u.cfg = s.cfg
  /-- Each Sleep(1) has cost one unit of BUDGET. -/
  trace : ∃ new, u.events = s.events ++ new ∧ rxAnswersOf new = answers ∧
    u.budget.toNat + sleepsIn new = limit.toNat

/-- The operation has ended with success: what R94 says, and its outputs are what arrived. -/
def EndsReceived (s : State) (e : Byte) (limit : BitVec 16) (t : State) : Prop :=
  t.mode = .received ∧ ReceivedInv t ∧ t.explen = e ∧ t.fault = s.fault ∧
  ∃ new, t.events = s.events ++ new ∧ t.budget.toNat + sleepsIn new = limit.toNat ∧
    ∃ z start symbols stop, rxAnswersOf new = z ++ [start] ++ symbols ++ [stop] ∧ AllNoData z ∧
      Delivers [start] [0x7E] ∧ Delivers [stop] [0x7E] ∧
      unstuffedBytes symbols = headerBytes t.hdr ++ bufPrefix t t.offset.toNat ++
        [checksumByte (headerBytes t.hdr ++ bufPrefix t t.offset.toNat)]

/-- The operation has ended without success: with a code in RESULT, or with a fault. -/
def EndsInvalid (s t : State) : Prop :=
  t.mode = .invalid ∧
  ((∃ k, t.result = errorCode s.cfg.errorCodes k ∧ t.fault = s.fault) ∨
    (t.result = s.result ∧ t.fault = if s.fault = .noFault then .bufferOverrun else s.fault))

/-- The step has stopped: the operation waits, or it has ended. -/
def Concludes (s : State) (e : Byte) (limit : BitVec 16) (t : State) : Prop :=
  t.busy = true ∨ EndsReceived s e limit t ∨ EndsInvalid s t

/-- The flow goes on in a state that meets P, or stops in one that meets Q. -/
def Reaches (P Q : State → Prop) (f : Flow) : Prop :=
  match f with
  | .go t => P t
  | .stop t => Q t
  | .bad _ => True

theorem Reaches.andThen {P P' Q : State → Prop} {f : Flow} {k : State → Flow} (hf : Reaches P Q f)
    (hk : ∀ t, P t → Reaches P' Q (k t)) : Reaches P' Q (Machine.andThen f k) := by
  cases f with
  | go t => exact hk t hf
  | stop t => exact hf
  | bad x => trivial

theorem Reaches.outcome {Q : State → Prop} {f : Flow} {t : State} (h : Reaches (fun _ => False) Q f)
    (ho : outcome f = .next t) : Q t := by
  cases f with
  | go u => exact h.elim
  | stop u => cases ho; exact h
  | bad x => cases ho

section
variable {s u : State} {e : Byte} {limit : BitVec 16} {answers : List RxAnswer} {bytes : List Byte}

theorem underway_enterResponse : Underway s e limit [] (enterResponse e limit s) where
  busy := rfl
  pos := rfl
  io := rfl
  explen := rfl
  result := rfl
  fault := rfl
  cfg := rfl
  trace := ⟨[], (List.append_nil _).symm, rfl, rfl⟩

theorem rxAnswersOf_rxEvents (c : List RxAnswer) : rxAnswersOf (rxEvents c) = c := by
  induction c with
  | nil => rfl
  | cons a c ih => exact congrArg (a :: ·) ih

theorem sleepsIn_rxEvents (c : List RxAnswer) : sleepsIn (rxEvents c) = 0 := by
  refine List.count_eq_zero.2 fun h => ?_
  obtain ⟨a, _, ha⟩ := List.mem_map.1 h
  cases ha

theorem Underway.heard (h : Underway s e limit answers u) (c rest : List RxAnswer) (last : Status) (ck : Byte) :
    Underway s e limit (answers ++ c) (heard u rest last (rxEvents c) ck) := by
  obtain ⟨new, hev, hrx, hb⟩ := h.trace
  refine { h with pos := rfl, trace := ⟨new ++ rxEvents c, ?_, ?_, ?_⟩ }
  · rw [← List.append_assoc, ← hev]
    rfl
  · rw [rxAnswersOf_append, hrx, rxAnswersOf_rxEvents]
  · rw [sleepsIn_append, sleepsIn_rxEvents]
    exact hb

/-- After a Sleep(1) and its unit of BUDGET. -/
theorem Underway.slept (h : Underway s e limit answers u) (hb : 0 < u.budget.toNat) (n : Nat) :
    Underway s e limit answers
      { spendBudget u with sleepAnswers := n, events := u.events ++ [.sleep], pos := .start } := by
  obtain ⟨new, hev, hrx, hsum⟩ := h.trace
  refine { h with pos := rfl, trace := ⟨new ++ [.sleep], ?_, ?_, ?_⟩ }
  · rw [← List.append_assoc, ← hev]
  · rw [rxAnswersOf_append, hrx]
    exact List.append_nil _
  · have hone : sleepsIn [Event.sleep] = 1 := rfl
    show (spendBudget u).budget.toNat + _ = _
    rw [spendBudget_budget_toNat hb, sleepsIn_append, hone]
    omega

/-- A Sleep(1) of Phase 1, before its unit is spent. -/
theorem Underway.sleeps (h : Underway s e limit answers u) (hb : 0 < u.budget.toNat) :
    Reaches (fun t => Underway s e limit answers (spendBudget t) ∧
      ∃ n ev, t = { u with sleepAnswers := n, events := ev, pos := .start })
      (Concludes s e limit) (sleepOne u) := by
  rcases sleepOne_event u with hs | ⟨n, hs⟩
  · rw [hs]
    exact .inl h.busy
  · rw [hs]
    exact ⟨h.slept hb n, _, _, rfl⟩

theorem Underway.failed (h : Underway s e limit answers u) (k : ErrorKind) : Concludes s e limit (fail k u) :=
  .inr (.inr ⟨rfl, .inl ⟨k, congrArg (fun c : Config => errorCode c.errorCodes k) h.cfg, h.fault⟩⟩)

theorem Underway.overrun (h : Underway s e limit answers u) : Concludes s e limit (raiseFault .bufferOverrun u) :=
  .inr (.inr ⟨rfl, .inr ⟨h.result, by rw [raiseFault_fault, h.fault]⟩⟩)

/-! ### From the start delimiter on -/

/-- After the no-data answers of Phase 1 and the start delimiter, the symbols heard bring these bytes, un-stuffed, and
CHECKSUM is their sum (R52). -/
def Hears (s : State) (e : Byte) (limit : BitVec 16) (bytes : List Byte) (u : State) : Prop :=
  ∃ z start symbols, AllNoData z ∧ Delivers [start] [0x7E] ∧ Brings symbols bytes ∧
    u.checksum = sumBytes bytes ∧ Underway s e limit (z ++ [start] ++ symbols) u

theorem Hears.failed (h : Hears s e limit bytes u) (k : ErrorKind) : Concludes s e limit (fail k u) := by
  obtain ⟨_, _, _, _, _, _, _, hu⟩ := h
  exact hu.failed k

theorem Hears.overrun (h : Hears s e limit bytes u) : Concludes s e limit (raiseFault .bufferOverrun u) := by
  obtain ⟨_, _, _, _, _, _, _, hu⟩ := h
  exact hu.overrun

/-- Everything an un-stuff step can be from there: a byte it gives is one more byte heard. -/
theorem Hears.unstuff (h : Hears s e limit bytes u) :
    (∃ t, Machine.unstuff u = .waits t ∧ Concludes s e limit t) ∨
    ∃ v t, Machine.unstuff u = .got v t ∧ Hears s e limit (bytes ++ v.toList) t ∧
      ∃ rest last new ck, t = Machine.heard u rest last new ck := by
  obtain ⟨z, start, symbols, hz, hstart, hbr, hck, hu⟩ := h
  rcases unstuff_brings hu.pos with ⟨t, ht, hb⟩ | ⟨v, c, rest, last, ht, hc⟩
  · exact .inl ⟨t, ht, .inl (hb.trans hu.busy)⟩
  · refine .inr ⟨v, _, ht, ⟨z, start, symbols ++ c, hz, hstart, hbr.append hc, ?_, ?_⟩, _, _, _, _, rfl⟩
    · rw [sumBytes_append, ← hck]
      rfl
    · rw [← List.append_assoc]
      exact hu.heard _ _ _ _

/-- A Sleep(1) of Phase 4, its unit spent. -/
theorem Hears.slept (h : Hears s e limit bytes u) (hb : 0 < u.budget.toNat) :
    Reaches (fun t => Hears s e limit bytes t ∧
      ∃ n ev, t = { spendBudget u with sleepAnswers := n, events := ev, pos := .start })
      (Concludes s e limit) (sleepOne (spendBudget u)) := by
  obtain ⟨z, start, symbols, hz, hstart, hbr, hck, hu⟩ := h
  rcases sleepOne_event (spendBudget u) with hs | ⟨n, hs⟩
  · rw [hs]
    exact .inl hu.busy
  · rw [hs]
    exact ⟨⟨z, start, symbols, hz, hstart, hbr, hck, hu.slept hb n⟩, _, _, rfl⟩

/-- The registers and BUF hold the header and the payload bytes heard, and these bytes came after them. -/
def Framed (s : State) (e : Byte) (limit : BitVec 16) (after : List Byte) (u : State) : Prop :=
  Hears s e limit (headerBytes u.hdr ++ bufPrefix u u.offset.toNat ++ after) u ∧ WrittenBelow u u.offset.toNat ∧
  u.offset.toNat ≤ u.hdr.dataLen.toNat ∧ u.hdr.dataLen.toNat ≤ u.explen.toNat

/-- Everything an un-stuff step can be after header and payload bytes. -/
theorem Framed.unstuff (h : Framed s e limit [] u) :
    (∃ t, Machine.unstuff u = .waits t ∧ Concludes s e limit t) ∨
    ∃ v t, Machine.unstuff u = .got v t ∧ Framed s e limit v.toList t ∧
      ∃ rest last new ck, t = Machine.heard u rest last new ck := by
  obtain ⟨hh, hrest⟩ := h
  rw [List.append_nil] at hh
  rcases hh.unstuff with hw | ⟨v, t, ht, hv, rest, last, new, ck, rfl⟩
  · exact .inl hw
  · exact .inr ⟨v, _, ht, ⟨hv, hrest⟩, rest, last, new, ck, rfl⟩

theorem Framed.failed {after : List Byte} (h : Framed s e limit after u) (k : ErrorKind) :
    Concludes s e limit (fail k u) := by
  obtain ⟨hh, _⟩ := h
  exact hh.failed k

theorem rxP7Phase_concludes {c : Byte} (h : Framed s e limit [c] u) (hlen : u.offset.toNat = u.hdr.dataLen.toNat)
    (hck : u.checksum = 0xFF) (hst : u.hdr.state &&& 0x7F = 0) :
    Reaches (fun _ => False) (Concludes s e limit) (rxP7Phase u) := by
  obtain ⟨⟨z, start, symbols, hz, hstart, hbr, hsum, hu⟩, hwr, _, hexp⟩ := h
  unfold rxP7Phase
  rcases hrx : u.rxAnswers with _ | ⟨stop, rest⟩
  · rw [rxByte_waits hrx]
    exact .inl hu.busy
  rw [rxByte_got hrx]
  dsimp only
  have hv := hu.heard [stop] rest stop.status u.checksum
  split
  · exact hv.failed _
  · next hbyte =>
    simp only [Bool.or_eq_true, not_or, heard_lastIoStatus, noByteStatus_iff, not_le, bne_iff_ne, not_not] at hbyte
    obtain ⟨hpos, hdata⟩ := hbyte
    obtain ⟨new, hev, hans, hb⟩ := hv.trace
    have hc := eq_checksumByte_of_sumBytes (hsum.symm.trans hck)
    refine .inr (.inl ⟨rfl, ⟨rfl, hu.io, hck, hpos, hlen, hexp, hst, hwr⟩, hu.explen, hu.fault, new, hev, hb,
      z, start, symbols, stop, hans, hz, hstart, ⟨?_, ?_⟩, ?_⟩)
    · exact congrArg (fun x => [x]) hdata
    · exact fun a ha => List.mem_singleton.1 ha ▸ hpos
    · rw [hbr.unstuffedBytes_eq, hc]
      rfl

theorem Hears.update {m : Memory} {o i : BitVec 16} {hdr : RxHeader} {p : Phase} (h : Hears s e limit bytes u) :
    Hears s e limit bytes { u with buf := m, offset := o, hdr := hdr, phase := p, idx := i } := by
  obtain ⟨z, start, symbols, hz, hstart, hbr, hck, hu⟩ := h
  exact ⟨z, start, symbols, hz, hstart, hbr, hck, { hu with }⟩

theorem Framed.toPhase {after : List Byte} (h : Framed s e limit after u) (p : Phase) :
    Framed s e limit after (toPhase p u) := by
  obtain ⟨hh, hrest⟩ := h
  exact ⟨hh.update (m := u.buf) (o := u.offset) (hdr := u.hdr), hrest⟩

theorem rxP6Phase_concludes {c : Byte} (h : Framed s e limit [c] u) (hlen : u.offset.toNat = u.hdr.dataLen.toNat)
    (hck : u.checksum = 0xFF) : Reaches (fun _ => False) (Concludes s e limit) (rxP6Phase u) := by
  unfold rxP6Phase
  split
  · exact h.failed _
  · next hst =>
    rw [executionError, bne_iff_ne, not_not] at hst
    exact rxP7Phase_concludes (h.toPhase _) hlen hck hst

theorem rxP5Phase_concludes (h : Framed s e limit [] u) (hlen : u.offset.toNat = u.hdr.dataLen.toNat) :
    Reaches (fun _ => False) (Concludes s e limit) (rxP5Phase u) := by
  unfold rxP5Phase
  rcases h.unstuff with ⟨t, ht, hc⟩ | ⟨v, t, ht, hv, _, _, _, _, hm⟩
  · rw [ht]
    exact hc
  rw [ht]
  cases v with
  | none => exact hv.failed _
  | some c =>
    dsimp only
    split
    · exact hv.failed _
    · next hck => exact rxP6Phase_concludes (hv.toPhase _) (hm ▸ hlen) (not_not.1 hck)

/-! ### The payload (R90) -/

theorem bufPrefix_setByte (n : Nat) (v : Byte) (u : State) :
    bufPrefix (setByte n v u) (n + 1) = bufPrefix u n ++ [v] := by
  rw [bufPrefix, List.range_succ, List.map_append, List.map_singleton, bufByte_setByte_same]
  congr 1
  exact List.map_congr_left fun a ha => bufByte_setByte_other _ _ _ _ (Nat.ne_of_lt (List.mem_range.1 ha))

theorem storePayload_framed {v : Byte} (h : Framed s e limit [v] u) (hlt : u.offset.toNat < u.hdr.dataLen.toNat) :
    Reaches (Framed s e limit []) (Concludes s e limit) (storePayload v u) := by
  obtain ⟨hh, hwr, _, hexp⟩ := h
  by_cases hc : u.offset.toNat < u.cfg.capacity
  case neg =>
    rw [storePayload, if_pos (Nat.le_of_not_lt hc)]
    exact hh.overrun
  have ho : (u.offset + 1).toNat = u.offset.toNat + 1 := by
    have := u.hdr.dataLen.isLt
    exact toNat_add_one_of_lt hlt (by omega)
  rw [storePayload_fits v hc]
  refine ⟨?_, ?_, ?_, hexp⟩
  · have hbytes : headerBytes u.hdr ++ bufPrefix u u.offset.toNat ++ [v] =
        headerBytes u.hdr ++ bufPrefix (setByte u.offset.toNat v u) (u.offset + 1).toNat ++ [] := by
      rw [ho, bufPrefix_setByte, List.append_nil, List.append_assoc]
    rw [hbytes] at hh
    exact hh.update (m := (setByte u.offset.toNat v u).buf) (o := u.offset + 1) (hdr := u.hdr) (p := u.phase)
      (i := u.idx)
  · show WrittenBelow (setByte u.offset.toNat v u) (u.offset + 1).toNat
    rw [ho]
    exact writtenBelow_setByte_succ hwr
  · show (u.offset + 1).toNat ≤ u.hdr.dataLen.toNat
    omega

theorem rxP4Loop_concludes (n : Nat) (h : Framed s e limit [] u) :
    Reaches (Framed s e limit []) (Concludes s e limit) (rxP4Loop n u) := by
  induction n generalizing u with
  | zero => exact h
  | succ n ih =>
    by_cases hopen : PayloadOpen u
    case neg =>
      rw [rxP4Loop_closed hopen]
      exact h
    rcases h.unstuff with ⟨t, ht, hc⟩ | ⟨v, t, ht, hv, _, _, _, _, hm⟩
    · rw [rxP4Loop_waits hopen ht]
      exact hc
    have ⟨hlt, hbudget⟩ : PayloadOpen t := by rwa [hm]
    cases v with
    | some v =>
      rw [rxP4Loop_stores hopen ht]
      exact (storePayload_framed hv hlt).andThen fun x hx => ih hx
    | none =>
      rw [rxP4Loop_silent hopen ht]
      split
      · exact hv.failed _
      · obtain ⟨hh, hrest⟩ := hv
        refine (hh.slept hbudget).andThen fun x ⟨hx, _, _, hxu⟩ => ih ?_
        subst hxu
        exact ⟨hx, hrest⟩

theorem rxP4Phase_concludes (h : Framed s e limit [] u) (hp : u.pos = .start) :
    Reaches (fun _ => False) (Concludes s e limit) (rxP4Phase u) := by
  rw [rxP4Phase_awake (.inl hp)]
  refine (rxP4Loop_concludes _ h).andThen fun t ht => ?_
  have ⟨hh, _, hle, _⟩ := ht
  unfold rxP4Exit
  split
  · exact hh.failed _
  · next hge => exact rxP5Phase_concludes (ht.toPhase _) (Nat.le_antisymm hle (Nat.le_of_not_lt hge))

/-! ### The header and the start delimiter (R87 to R89) -/

theorem rxP3Phase_concludes (h : Hears s e limit (headerBytes u.hdr) u) (ho : u.offset = 0) :
    Reaches (fun _ => False) (Concludes s e limit) (rxP3Phase u) := by
  unfold rxP3Phase
  split
  · exact h.failed _
  · next hexp =>
    have ho0 : u.offset.toNat = 0 := by simp [ho]
    have hframed : Framed s e limit [] u := by
      refine ⟨?_, ?_, ?_, Nat.le_of_not_lt hexp⟩
      · rw [ho0]
        exact (List.append_nil (headerBytes u.hdr)).symm ▸ h
      · rw [ho0]
        exact fun a ha => absurd ha (Nat.not_lt_zero a)
      · rw [ho0]
        exact Nat.zero_le _
    obtain ⟨_, _, _, _, _, _, _, hu⟩ := h
    exact rxP4Phase_concludes (hframed.toPhase _) hu.pos

/-- One more byte of HDR is written. -/
theorem take_headerBytes_setHeaderByte (h : RxHeader) (v : Byte) {k : Nat} (hk : k < 4) :
    (headerBytes (setHeaderByte k v h)).take (k + 1) = (headerBytes h).take k ++ [v] := by
  interval_cases k <;> rfl

theorem rxP2Loop_concludes (n : Nat) (h : Hears s e limit ((headerBytes u.hdr).take u.idx.toNat) u) (ho : u.offset = 0)
    (hn : u.idx.toNat + n = 4) :
    Reaches (fun t => Hears s e limit (headerBytes t.hdr) t ∧ t.offset = 0) (Concludes s e limit) (rxP2Loop n u) := by
  induction n generalizing u with
  | zero =>
    have hall : (headerBytes u.hdr).take u.idx.toNat = headerBytes u.hdr :=
      List.take_of_length_le (Nat.le_of_eq hn.symm)
    rw [hall] at h
    exact ⟨h, ho⟩
  | succ n ih =>
    unfold rxP2Loop
    rcases h.unstuff with ⟨t, ht, hc⟩ | ⟨v, t, ht, hv, _, _, _, _, rfl⟩
    · rw [ht]
      exact hc
    rw [ht]
    cases v with
    | none => exact hv.failed _
    | some v =>
      have hidx : (u.idx + 1).toNat = u.idx.toNat + 1 := toNat_add_one_of_lt (n := 4) (by omega) (by decide)
      refine ih ?_ ho ?_
      · show Hears s e limit ((headerBytes (setHeaderByte u.idx.toNat v u.hdr)).take (u.idx + 1).toNat) _
        rw [hidx, take_headerBytes_setHeaderByte _ _ (by omega)]
        exact hv.update
      · show (u.idx + 1).toNat + n = 4
        omega

theorem rxP2Phase_concludes (h : Hears s e limit [] u) (hi : u.idx = 0) (ho : u.offset = 0) :
    Reaches (fun _ => False) (Concludes s e limit) (rxP2Phase u) := by
  have hi0 : u.idx.toNat = 0 := by simp [hi]
  refine (rxP2Loop_concludes _ (by rw [hi0]; exact h) ho (by omega)).andThen fun t ⟨ht, hto⟩ => ?_
  exact rxP3Phase_concludes (u := toPhase .rxP3 t) (ht.update (m := t.buf) (o := t.offset) (hdr := t.hdr)) hto

theorem rxP1Loop_concludes (n : Nat) (h : Underway s e limit answers u) (hz : AllNoData answers) (ho : u.offset = 0)
    (hck : u.checksum = 0) (hn : u.budget.toNat = n) :
    Reaches (fun t => Hears s e limit [] t ∧ t.offset = 0) (Concludes s e limit) (rxP1Loop n u) := by
  induction n generalizing u answers with
  | zero => exact h.failed _
  | succ n ih =>
    unfold rxP1Loop
    rcases hrx : u.rxAnswers with _ | ⟨a, rest⟩
    · rw [rxByte_waits hrx]
      exact .inl h.busy
    rw [rxByte_got hrx]
    dsimp only
    have hv : Underway s e limit (answers ++ [a]) (Machine.heard u rest a.status [.rx a] u.checksum) :=
      h.heard [a] rest a.status u.checksum
    have hb : 0 < u.budget.toNat := by omega
    split
    case isTrue => exact hv.failed _
    case isFalse herr =>
    rw [heard_lastIoStatus, errorStatus_iff] at herr
    split
    case isTrue hzero =>
      refine (hv.sleeps hb).andThen fun t ⟨ht, _, _, htu⟩ => ?_
      subst htu
      refine ih ht (fun x hx => ?_) ho hck ?_
      · rcases List.mem_append.1 hx with hx | hx
        · exact hz x hx
        · rw [List.mem_singleton.1 hx, show a.status = 0 from hzero]
          rfl
      · have := spendBudget_budget_toNat hb
        show (spendBudget u).budget.toNat = n
        omega
    case isFalse hne =>
    split
    case isTrue => exact hv.failed _
    case isFalse hdata =>
      have hpos : 0 < a.status.toInt := by
        have : a.status.toInt ≠ 0 := fun h0 => hne (noData_status h0)
        omega
      refine ⟨⟨answers, a, [], hz, ⟨?_, ?_⟩, brings_nil, hck, ?_⟩, ho⟩
      · exact congrArg (fun x => [x]) (not_not.1 hdata)
      · exact fun x hx => List.mem_singleton.1 hx ▸ hpos
      · rw [List.append_nil]
        exact hv

/-- Whatever the transport answers, a `read_response` waits, is received, or ends invalid. -/
theorem exec_readResponse_concludes {t : State} (h : exec (.readResponse e limit) s = .next t) :
    Concludes s e limit t := by
  refine Reaches.outcome (f := rxP1Phase (enterResponse e limit s)) ?_ h
  rw [rxP1Phase_awake rfl]
  refine (rxP1Loop_concludes _ underway_enterResponse (fun _ ha => absurd ha List.not_mem_nil) rfl rfl rfl).andThen
    fun u ⟨hu, huo⟩ => ?_
  exact rxP2Phase_concludes (u := toPhase .rxP2 u) (hu.update (m := u.buf) (o := u.offset) (hdr := u.hdr)) rfl huo

end

end Sys2Proof.Machine

open Sys2Proof Sys2Proof.Machine

/-- Settles O50: what has been heard is carried through the phases, and an operation that has ended does not wait. -/
theorem endedResponseIsValidOrInvalid : Obligations.EndedResponseIsValidOrInvalid := by
  intro s t e limit h hb
  rcases exec_readResponse_concludes h with hbusy | hreceived | hinvalid
  · rw [hb] at hbusy
    cases hbusy
  · exact .inl hreceived
  · exact .inr hinvalid
end

section
/-! PROOFS. The statements of 40_writer.md on one writer operation: what it is made of, its two faults, its append, the
wait for data, and what it leaves alone. -/

namespace Sys2Proof.Machine

/-! ### What a writer operation is -/

/-- A writer operation is an append of as many bytes as its operand is wide, or an `add_bytes`. -/
theorem writer_cases {i : Instr} (s : State) (hw : isWriter i = true) :
    (∃ e, e.length = encodedWidth s.cfg i ∧ exec i s = outcome (append e s)) ∨ ∃ length, i = .addBytes length := by
  cases i with
  | addU8 v => exact .inl ⟨[v], rfl, rfl⟩
  | addBool v => exact .inl ⟨[boolByte v], rfl, rfl⟩
  | addU16 v => exact .inl ⟨_, serialize_length _ 2 v, rfl⟩
  | addI16 v => exact .inl ⟨_, serialize_length _ 2 v, rfl⟩
  | addU32 v => exact .inl ⟨_, serialize_length _ 4 v, rfl⟩
  | addI32 v => exact .inl ⟨_, serialize_length _ 4 v, rfl⟩
  | addFloat v => exact .inl ⟨_, serialize_length _ s.cfg.floatW v, rfl⟩
  | addBytes length => exact .inr ⟨length, rfl⟩
  | beginStream c a l => cases hw
  | writeRequest => cases hw
  | readResponse e n => cases hw

/-! ### BufferOverrun -/

/-- The guard of an operation accepted from an idle state, with bytes that do not fit. -/
theorem guardAppend_accept_overrun {n : Nat} {p : Phase} {s : State} {k : State → Flow} (hi : Idle s)
    (hf : s.fault = .noFault) (hm : s.mode = .build) (hc : s.cfg.capacity < s.offset.toNat + n) :
    guardAppend n (accept p s) k = .stop { s with fault := .bufferOverrun, mode := .invalid } := by
  rw [guardAppend_overrun (s := accept p s) hm hc, raiseFault_accept hi hf]

theorem append_overrun {s : State} {e : List Byte} (hi : Idle s) (hf : s.fault = .noFault) (hm : s.mode = .build)
    (hc : s.cfg.capacity < s.offset.toNat + e.length) :
    append e s = .stop { s with fault := .bufferOverrun, mode := .invalid } :=
  guardAppend_accept_overrun hi hf hm hc

/-! ### `add_bytes` -/

theorem addBytes_zero {s : State} (hi : Idle s) (hm : s.mode = .build) (hc : s.offset.toNat ≤ s.cfg.capacity) :
    exec (.addBytes 0) s = .next s := by
  have hend : endAppend 0 (copying 0 s) = s := by
    rw [endAppend_idle (m := s.buf) hi rfl, Nat.add_zero, BitVec.ofNat_toNat, BitVec.setWidth_eq]
  rw [exec_addBytes_fits (length := 0) hm hc]
  exact congrArg Host.Outcome.next hend

/-- R71: an `add_bytes` with too few data bytes waits with the bytes that came copied to BUF. -/
theorem addBytes_waits {s : State} {length : BitVec 16} (hm : s.mode = .build)
    (hc : s.offset.toNat + length.toNat ≤ s.cfg.capacity) (hd : s.dataPort.length < length.toNat) :
    ∃ m, exec (.addBytes length) s = .next { s with
        buf := m, busy := true, phase := .copy, copyLength := length, idx := BitVec.ofNat 16 s.dataPort.length,
        dataPort := [], pos := .start } ∧
      (∀ k (hk : k < s.dataPort.length), Memory.find m (s.offset.toNat + k) = some s.dataPort[k]) ∧
      (∀ b, b < s.offset.toNat ∨ s.offset.toNat + length.toNat ≤ b → Memory.find m b = Memory.find s.buf b) := by
  obtain ⟨m, hcopy, hin, hout⟩ := copyLoop_waits length.toNat (copying length s) hd hc
    (by simpa [copying] using length.isLt)
  refine ⟨m, ?_, hin, hout⟩
  rw [exec_addBytes_fits hm hc, hcopy]
  simp [outcome, copying, accept]

/-! ### What a writer operation leaves alone -/

/-- t is s but for BUF in the n bytes from OFFSET upward and for the registers that a writer operation uses. -/
def WritesWithin (n : Nat) (s t : State) : Prop :=
  t = { s with
    buf := t.buf, offset := t.offset, mode := t.mode, phase := t.phase, idx := t.idx, fault := t.fault, busy := t.busy,
    dataPort := t.dataPort, pos := t.pos, copyLength := t.copyLength } ∧
  ∀ a, a < s.offset.toNat ∨ s.offset.toNat + n ≤ a → bufByte t a = bufByte s a

theorem guardAppend_writesWithin {n : Nat} {p : Phase} {s t : State} {k : State → Flow}
    (h : outcome (guardAppend n (accept p s) k) = .next t)
    (hk : s.mode = .build → s.offset.toNat + n ≤ s.cfg.capacity → outcome (k (accept p s)) = .next t →
      WritesWithin n s t) : WritesWithin n s t := by
  have hfault : ∀ f, outcome (.stop (raiseFault f (accept p s))) = .next t → WritesWithin n s t := by
    rintro f ⟨⟩
    exact ⟨rfl, fun _ _ => rfl⟩
  by_cases hm : s.mode = .build
  · rcases Nat.lt_or_ge s.cfg.capacity (s.offset.toNat + n) with hc | hc
    · rw [guardAppend_overrun (s := accept p s) hm hc] at h
      exact hfault _ h
    · rw [guardAppend_fits (s := accept p s) hm hc] at h
      exact hk hm hc h
  · rw [guardAppend_misuse (s := accept p s) hm] at h
    exact hfault _ h

theorem append_writesWithin {s t : State} {e : List Byte} (h : outcome (append e s) = .next t) :
    WritesWithin e.length s t := by
  refine guardAppend_writesWithin h fun _ hc h => ?_
  obtain ⟨m, hw, _, hout, _, _⟩ := writeBytes_eq s.offset.toNat e (accept .idle s) hc
  rw [accept_offset, hw] at h
  cases h
  exact ⟨rfl, fun a ha => by simp [bufByte, hout a ha]⟩

theorem addBytes_writesWithin {s t : State} {length : BitVec 16} (h : exec (.addBytes length) s = .next t) :
    WritesWithin length.toNat s t := by
  refine guardAppend_writesWithin (p := .copy) h fun hm hc _ => ?_
  rcases Nat.lt_or_ge s.dataPort.length length.toNat with hd | hd
  · obtain ⟨m, hx, _, hout⟩ := addBytes_waits hm hc hd
    cases hx.symm.trans h
    exact ⟨rfl, fun a ha => by simp [bufByte, hout a ha]⟩
  · obtain ⟨m, i, hcopy, _, hout⟩ := copyLoop_eq length.toNat (copying length s) _ _ (List.length_take_of_le hd)
      (List.take_append_drop _ _).symm hc (by simpa [copying] using length.isLt)
    rw [exec_addBytes_fits hm hc, hcopy] at h
    cases h
    exact ⟨rfl, fun a ha => by simp [bufByte, copying, hout a ha]⟩

theorem writer_writesWithin {i : Instr} {s t : State} (hw : isWriter i = true) (h : exec i s = .next t) :
    WritesWithin (encodedWidth s.cfg i) s t := by
  rcases writer_cases s hw with ⟨e, he, hx⟩ | ⟨length, rfl⟩
  · rw [← he]
    exact append_writesWithin (hx.symm.trans h)
  · exact addBytes_writesWithin h

end Sys2Proof.Machine

open Sys2Proof Sys2Proof.Machine

/-- Settles O14: the two tests of the guard, then the writes. -/
theorem appendStep : Obligations.AppendStep :=
  fun _ _ hi hf => ⟨append_misuse hi hf, append_overrun hi hf, append_appends hi⟩

/-- Settles O15: the rows of R54 for the two operations. -/
theorem byteAndBoolAppend : Obligations.ByteAndBoolAppend := by
  intro s hi hm hc
  exact ⟨fun v => writer_appends (i := .addU8 v) rfl hi hm hc (Nat.zero_le _),
    writer_appends (i := .addBool 1) rfl hi hm hc (Nat.zero_le _),
    writer_appends (i := .addBool 0) rfl hi hm hc (Nat.zero_le _)⟩

/-- Settles O19: the COPY loop with its data there, and without a round when `length` is 0. -/
theorem addBytesAppendsTheData : Obligations.AddBytesAppendsTheData := by
  intro s length e rest hi hm hc hd he
  refine ⟨addBytes_appends hi hm hc hd he, ?_⟩
  rintro rfl
  exact addBytes_zero hi hm hc

/-- Settles O20: the COPY loop that runs out of data. -/
theorem addBytesWaitsForData : Obligations.AddBytesWaitsForData := by
  intro s length hi hm hc hd
  obtain ⟨m, hx, hin, hout⟩ := addBytes_waits hm hc hd
  obtain ⟨_, _, _, hpos, _⟩ := hi
  exact ⟨_, hx, by simp [hpos], fun k hk => bufByte_of_find (hin k hk), fun a ha => by simp [bufByte, hout a ha]⟩

/-- Settles O22: each writer operation makes both tests on its encoded width before its first write. -/
theorem overrunWritesNothing : Obligations.OverrunWritesNothing := by
  intro i s hw hi hf hm hc
  rcases writer_cases s hw with ⟨e, he, hx⟩ | ⟨length, rfl⟩
  · rw [hx, append_overrun hi hf hm (he ▸ hc)]
    rfl
  · exact congrArg outcome (guardAppend_accept_overrun (p := .copy) hi hf hm hc)

/-- Settles O23: an operation that faults leaves BUF alone, and one that passes the guard writes within its room. -/
theorem writerFrame : Obligations.WriterFrame := by
  intro i s t hw h
  obtain ⟨ht, hbuf⟩ := writer_writesWithin hw h
  rw [ht] at hbuf ⊢
  exact ⟨rfl, rfl, rfl, rfl, rfl, rfl, rfl, rfl, rfl, rfl, rfl, rfl, rfl, rfl, rfl, hbuf⟩
end

section
/-! PROOFS. `begin_stream`, and the byte stuffer on one byte (41_encoder.md R74, R75). -/

namespace Sys2Proof.Machine

/-- s when `begin_stream` has composed the header. -/
def begun (command address dataLength : Byte) (s : State) : State :=
  { s with
    buf := Memory.putAll s.buf 0 [address, command, dataLength], offset := 3, checksum := 0, lastIoStatus := 0,
    mode := .build }

theorem exec_beginStream {s : State} {command address dataLength : Byte} (hi : Idle s) (hc : 3 ≤ s.cfg.capacity) :
    exec (.beginStream command address dataLength) s = .next (begun command address dataLength s) := by
  obtain ⟨hbusy, hphase, hidx, hpos, hcopy⟩ := hi
  show execBeginStream command address dataLength s = _
  rw [execBeginStream, memWrite_eq _ _ _ (by show 0 < s.cfg.capacity; omega), andThen,
    memWrite_eq _ _ _ (by show 1 < s.cfg.capacity; omega), andThen,
    memWrite_eq _ _ _ (by show 2 < s.cfg.capacity; omega)]
  cases s
  simp_all [andThen, outcome, endOperation, accept, setByte, begun, Memory.putAll]

/-- BUF after `begin_stream`: the three header bytes, and beyond them what was there. -/
theorem payloadStored_begun {s : State} {command address dataLength : Byte} (hc : 3 ≤ s.cfg.capacity) :
    PayloadStored s (begun command address dataLength s) [address, command, dataLength] :=
  payloadStored_putAll hc rfl rfl

end Sys2Proof.Machine

open Sys2Proof Sys2Proof.Machine

/-- Settles O25: the three writes, from address 0 on. -/
theorem beginStreamComposesTheHeader : Obligations.BeginStreamComposesTheHeader := by
  intro s command address dataLength hi hc
  obtain ⟨hin, hout⟩ := payloadStored_begun (command := command) (address := address) (dataLength := dataLength) hc
  exact ⟨_, exec_beginStream hi hc, rfl, hin 0 (by simp), hin 1 (by simp), hin 2 (by simp), hout⟩

/-- Settles O26: the byte is accumulated, then come the transfers of its symbol. -/
theorem stuffAndWriteStep : Obligations.StuffAndWriteStep := by
  intro b s acc rest hpos hacc
  rw [stuffAndWrite_start hpos]
  have hkept : ∀ rest last new, transmitted (accumulate b s) rest last new = { s with
      checksum := s.checksum + b, txAnswers := rest, lastIoStatus := last, events := s.events ++ new } := by
    intro rest last new
    simp [transmitted, accumulate, hpos]
  refine ⟨fun hlen htx => ?_, fun bad hlen hbad htx => ?_⟩
  · rw [symbolFirst_accepted (s := accumulate b s) hacc hlen htx, hkept]
  · rw [symbolFirst_refused (s := accumulate b s) hacc hlen hbad htx, hkept]
end

section
/-! PROOFS. What a `write_request` can do at all, ended or waiting (41_encoder.md R76, R80): transfers, counted, and no
register outside the ones it uses. -/

namespace Sys2Proof.Machine

/-- t is s but for the registers and the port that a `write_request` uses. -/
abbrev SameButTx (s t : State) : Prop :=
  t = { s with
    checksum := t.checksum, lastIoStatus := t.lastIoStatus, io := t.io, result := t.result, mode := t.mode,
    phase := t.phase, idx := t.idx, busy := t.busy, txAnswers := t.txAnswers, events := t.events, pos := t.pos,
    copyLength := t.copyLength }

/-- t is s but for these, and its new events are at most n TxByte. -/
def IssuesTx (n : Nat) (s t : State) : Prop :=
  SameButTx s t ∧ ∃ new, t.events = s.events ++ new ∧ new.length ≤ n ∧ ∀ e ∈ new, ∃ b status, e = .tx b status

variable {m n : Nat} {s t u : State}

theorem SameButTx.trans (h1 : SameButTx s t) (h2 : SameButTx t u) : SameButTx s u := by
  unfold SameButTx at h1 h2 ⊢
  rw [h2, h1]

/-- No event. -/
theorem IssuesTx.quiet (h : SameButTx s t) (hev : t.events = s.events) : IssuesTx 0 s t :=
  ⟨h, [], by rw [hev, List.append_nil], Nat.le_refl 0, fun _ he => absurd he List.not_mem_nil⟩

theorem IssuesTx.trans (h1 : IssuesTx m s t) (h2 : IssuesTx n t u) : IssuesTx (m + n) s u := by
  obtain ⟨ht, new, hev, hlen, htx⟩ := h1
  obtain ⟨hu, new', hev', hlen', htx'⟩ := h2
  refine ⟨ht.trans hu, new ++ new', ?_, ?_, ?_⟩
  · rw [hev', hev, List.append_assoc]
  · rw [List.length_append]
    exact Nat.add_le_add hlen hlen'
  · exact fun e he => (List.mem_append.1 he).elim (htx e) (htx' e)

theorem IssuesTx.mono (h : IssuesTx m s t) (hmn : m ≤ n) : IssuesTx n s t := by
  obtain ⟨ht, new, hev, hlen, htx⟩ := h
  exact ⟨ht, new, hev, hlen.trans hmn, htx⟩

theorem IssuesTx.offset (h : IssuesTx n s t) : t.offset = s.offset := by
  obtain ⟨ht, _⟩ := h
  rw [ht]

theorem IssuesTx.leads_mono {f : Flow} (hf : Leads (IssuesTx m) s f) (hmn : m ≤ n) : Leads (IssuesTx n) s f := by
  cases f with
  | go u => exact IssuesTx.mono hf hmn
  | stop u => exact IssuesTx.mono hf hmn
  | bad x => trivial

/-- A flow gone on with from a state to which s has come. -/
theorem IssuesTx.leads {f : Flow} (h : IssuesTx m s t) (hf : Leads (IssuesTx n) t f) :
    Leads (IssuesTx (m + n)) s f := by
  cases f with
  | go u => exact h.trans hf
  | stop u => exact h.trans hf
  | bad x => trivial

theorem IssuesTx.leads_quiet {f : Flow} (h : IssuesTx 0 s t) (hf : Leads (IssuesTx n) t f) :
    Leads (IssuesTx n) s f := by
  rw [← Nat.zero_add n]
  exact h.leads hf

theorem IssuesTx.andThen {f : Flow} {k : State → Flow} (hf : Leads (IssuesTx m) s f)
    (hk : ∀ t, IssuesTx m s t → Leads (IssuesTx n) t (k t)) : Leads (IssuesTx (m + n)) s (Machine.andThen f k) := by
  cases f with
  | go t => exact IssuesTx.leads hf (hk t hf)
  | stop t => exact IssuesTx.mono hf (Nat.le_add_right m n)
  | bad x => trivial

theorem issuesTx_readByte {a : Nat} {k : Byte → Flow} (hk : ∀ b, Leads (IssuesTx n) s (k b)) :
    Leads (IssuesTx n) s (readByte a s k) := by
  unfold readByte
  split
  · exact hk _
  · trivial

theorem issuesTx_transmitted (rest : List Status) (a : Status) (b : Byte) :
    IssuesTx 1 s (transmitted s rest a [.tx b a]) :=
  ⟨rfl, [.tx b a], rfl, Nat.le_refl 1, fun _ he => ⟨b, a, List.mem_singleton.1 he⟩⟩

theorem issuesTx_fail (e : ErrorKind) (s : State) : IssuesTx 0 s (fail e s) := .quiet rfl rfl

theorem issuesTx_returnSuccess (m : Mode) (s : State) : IssuesTx 0 s (returnSuccess m s) := .quiet rfl rfl

theorem issuesTx_sendByte (p : Pos) (b : Byte) (s : State) : Leads (IssuesTx 1) s (sendByte p b s) := by
  rcases htx : s.txAnswers with _ | ⟨a, rest⟩
  · rw [sendByte_waits htx]
    exact (IssuesTx.quiet rfl rfl).mono (Nat.zero_le 1)
  · rcases lt_or_ge a.toInt 1 with ha | ha
    · rw [sendByte_refused htx ha]
      exact (issuesTx_transmitted rest a b).trans (issuesTx_fail _ _)
    · rw [sendByte_accepted htx ha]
      exact issuesTx_transmitted rest a b

/-- A symbol has at most two bytes (R49). -/
theorem issuesTx_symbolFirst (b : Byte) (s : State) : Leads (IssuesTx 2) s (symbolFirst b s) := by
  unfold symbolFirst
  split
  · exact IssuesTx.andThen (issuesTx_sendByte _ _ s) fun t _ => issuesTx_sendByte _ _ t
  · exact IssuesTx.leads_mono (issuesTx_sendByte _ _ s) one_le_two

theorem issuesTx_stuffAndWrite (b : Byte) (s : State) : Leads (IssuesTx 2) s (stuffAndWrite b s) := by
  have fresh : Leads (IssuesTx 2) s (symbolFirst b (accumulate b s)) :=
    (IssuesTx.quiet rfl rfl).leads_quiet (issuesTx_symbolFirst b (accumulate b s))
  unfold stuffAndWrite
  cases s.pos with
  | start => exact fresh
  | txFirst c => exact issuesTx_symbolFirst c s
  | txSecond c => exact IssuesTx.leads_mono (issuesTx_sendByte _ _ s) one_le_two
  | rxSecond => exact fresh
  | sleeping => exact fresh

theorem issuesTx_txStopPhase (s : State) : Leads (IssuesTx 1) s (txStopPhase s) :=
  IssuesTx.andThen (n := 0) (issuesTx_sendByte _ _ s) fun t _ => issuesTx_returnSuccess .sent t

theorem issuesTx_txCsumPhase (s : State) : Leads (IssuesTx (2 + 1)) s (txCsumPhase s) :=
  IssuesTx.andThen (issuesTx_stuffAndWrite _ s) fun _ _ => (IssuesTx.quiet rfl rfl).leads_quiet (issuesTx_txStopPhase _)

theorem issuesTx_txBodyLoop (n : Nat) (s : State) : Leads (IssuesTx (2 * n)) s (txBodyLoop n s) := by
  induction n generalizing s with
  | zero => exact IssuesTx.quiet rfl rfl
  | succ n ih =>
    rw [txBodyLoop, Nat.mul_succ, Nat.add_comm]
    exact issuesTx_readByte fun b => IssuesTx.andThen (issuesTx_stuffAndWrite b s) fun _ _ =>
      (IssuesTx.quiet rfl rfl).leads_quiet (ih _)

theorem issuesTx_txStartPhase (s : State) :
    Leads (IssuesTx (1 + (2 * s.offset.toNat + (2 + 1)))) s (txStartPhase s) := by
  refine IssuesTx.andThen (issuesTx_sendByte _ _ s) fun t ht => ?_
  rw [← ht.offset]
  exact (IssuesTx.quiet rfl rfl).leads_quiet (IssuesTx.andThen (issuesTx_txBodyLoop _ (toPhase .txBody t)) fun _ _ =>
    (IssuesTx.quiet rfl rfl).leads_quiet (issuesTx_txCsumPhase _))

theorem issuesTx_txCheckPhase (s : State) :
    Leads (IssuesTx (1 + (2 * s.offset.toNat + (2 + 1)))) s (txCheckPhase s) := by
  refine IssuesTx.leads_quiet (t := { s with io := .writer }) (.quiet rfl rfl) (issuesTx_readByte fun b => ?_)
  split
  · exact (issuesTx_fail _ _).mono (Nat.zero_le _)
  · exact (IssuesTx.quiet rfl rfl).leads_quiet (issuesTx_txStartPhase (toPhase .txStart { s with io := .writer }))

/-- A `write_request` raises Misuse, or its events are those of two delimiters and of OFFSET + 1 symbols at most. -/
theorem exec_writeRequest_issuesTx (h : exec .writeRequest s = .next t) :
    t = raiseFault .misuse s ∨ IssuesTx (2 + 2 * (s.offset.toNat + 1)) s t := by
  change outcome (writeRequest s) = .next t at h
  unfold writeRequest at h
  split at h
  · cases h
    exact .inl rfl
  · have hbound : 2 + 2 * (s.offset.toNat + 1) = 1 + (2 * s.offset.toNat + (2 + 1)) := by omega
    rw [hbound]
    exact .inr (((IssuesTx.quiet rfl rfl).leads_quiet (issuesTx_txCheckPhase (accept .txCheck s))).next h)

end Sys2Proof.Machine

open Sys2Proof Sys2Proof.Machine

/-- Settles O32: Misuse comes before anything else, and everything after it is transfers. -/
theorem writeRequestFrame : Obligations.WriteRequestFrame := by
  intro s t h
  rcases exec_writeRequest_issuesTx h with rfl | ⟨ht, _⟩
  · refine ⟨rfl, rfl, rfl, rfl, rfl, rfl, rfl, rfl, rfl, rfl, rfl, rfl, fun hne => ⟨?_, rfl, rfl⟩⟩
    rw [raiseFault_fault] at hne ⊢
    split at hne
    · next hf => rw [if_pos hf]
    · exact absurd rfl hne
  · rw [ht]
    exact ⟨rfl, rfl, rfl, rfl, rfl, rfl, rfl, rfl, rfl, rfl, rfl, rfl, fun hne => absurd rfl hne⟩

/-- Settles O33, by the same count. -/
theorem writeRequestEventBound : Obligations.WriteRequestEventBound := by
  intro s t h
  rcases exec_writeRequest_issuesTx h with rfl | ⟨_, hev⟩
  · exact ⟨[], (List.append_nil _).symm, Nat.zero_le _, fun e he => absurd he List.not_mem_nil⟩
  · exact hev
end

section
/-! PROOFS. A `write_request` of a request whose length is as declared (41_encoder.md R76 to R79, R81). Its flow is
followed along the transport's answers: `Sends` says of a flow that it offers these bytes one by one up to the first
refusal. The lemma of a piece of a phase asks it of what follows the piece. -/

namespace Sys2Proof.Machine

/-- The flow f, come to the state s but for CHECKSUM, PHASE and IDX, offers these bytes one by one; with all of them
accepted it is `done` of the state after them, and the first refusal ends it. Where an answer is missing nothing is
said. -/
def Sends (done : State → Flow) (bytes : List Byte) (s : State) (f : Flow) : Prop :=
  match bytes with
  | [] => f = done s
  | b :: bytes =>
    ∀ a rest, s.txAnswers = a :: rest →
      if a.toInt < 1 then
        ∃ ck, f = .stop (fail .transmitIncomplete { transmitted s rest a [.tx b a] with checksum := ck })
      else Sends done bytes (transmitted s rest a [.tx b a]) f

variable {done : State → Flow} {s : State} {f : Flow} {bytes : List Byte}

/-- With every transfer accepted. -/
theorem Sends.accepted {acc rest : List Status} (h : Sends done bytes s f) (hpos : s.pos = .start)
    (hacc : AllAccepted acc) (hlen : acc.length = bytes.length) (htx : s.txAnswers = acc ++ rest) :
    f = done (transmitted s rest (acc.getLastD s.lastIoStatus) (txEvents bytes acc)) := by
  induction acc generalizing s bytes with
  | nil =>
    obtain rfl := List.length_eq_zero_iff.1 hlen.symm
    have hs : transmitted s rest s.lastIoStatus [] = s := by
      cases s
      simp_all [transmitted]
    exact h.trans (congrArg done hs.symm)
  | cons a acc ih =>
    obtain ⟨b, bytes, rfl⟩ := List.exists_cons_of_length_eq_add_one hlen.symm
    have h := h a (acc ++ rest) htx
    have ha := hacc a List.mem_cons_self
    rw [if_neg (by omega)] at h
    rw [ih h rfl (fun x hx => hacc x (List.mem_cons_of_mem _ hx)) (Nat.succ.inj hlen) rfl, transmitted_transmitted,
      List.getLastD_cons]
    rfl

/-- With a transfer refused. -/
theorem Sends.refused {acc rest : List Status} {bad : Status} (h : Sends done bytes s f) (hacc : AllAccepted acc)
    (hbad : bad.toInt < 1) (hlen : acc.length < bytes.length) (htx : s.txAnswers = acc ++ [bad] ++ rest) :
    ∃ ck, f = .stop (fail .transmitIncomplete
      { transmitted s rest bad (txEvents bytes (acc ++ [bad])) with checksum := ck }) := by
  induction acc generalizing s bytes with
  | nil =>
    obtain ⟨b, bytes, rfl⟩ := List.exists_cons_of_length_pos hlen
    have h := h bad rest htx
    rw [if_pos hbad] at h
    simpa [txEvents] using h
  | cons a acc ih =>
    obtain ⟨b, bytes, rfl⟩ := List.exists_cons_of_length_pos (Nat.zero_lt_of_lt hlen)
    have h := h a (acc ++ [bad] ++ rest) htx
    have ha := hacc a List.mem_cons_self
    rw [if_neg (by omega)] at h
    obtain ⟨ck, hf⟩ := ih h (fun x hx => hacc x (List.mem_cons_of_mem _ hx)) (Nat.lt_of_succ_lt_succ hlen) rfl
    refine ⟨ck, hf.trans ?_⟩
    rw [transmitted_transmitted]
    rfl

/-! ### The phases, one transfer after the other -/

/-- s with CHECKSUM, PHASE and IDX moved on. -/
def advanced (ck : Byte) (p : Phase) (i : BitVec 16) (s : State) : State :=
  { s with checksum := ck, phase := p, idx := i }

variable {k : State → Flow} {ck : Byte} {p : Phase} {i : BitVec 16}

theorem sends_sendByte {q : Pos} {b : Byte}
    (hk : ∀ t, TxMoved s t → t.pos = .start → Sends done bytes t (k (advanced ck p i t))) :
    Sends done (b :: bytes) s (andThen (sendByte q b (advanced ck p i s)) k) := by
  intro a rest htx
  split
  · next ha =>
    rw [sendByte_refused (s := advanced ck p i s) htx ha]
    exact ⟨ck, rfl⟩
  · next ha =>
    rw [sendByte_accepted (s := advanced ck p i s) htx (by omega)]
    exact hk _ ⟨_, _, _, _, rfl⟩ rfl

theorem sends_stuffAndWrite {b : Byte} (hpos : s.pos = .start)
    (hk : ∀ t, TxMoved s t → t.pos = .start → Sends done bytes t (k (advanced (ck + b) p i t))) :
    Sends done (symbol b ++ bytes) s (andThen (stuffAndWrite b (advanced ck p i s)) k) := by
  rw [stuffAndWrite_start (s := advanced ck p i s) hpos, symbol_eq]
  unfold symbolFirst
  split
  · rw [andThen_assoc]
    exact sends_sendByte (ck := ck + b) fun t ht _ => sends_sendByte fun u hu hupos => hk u (ht.trans hu) hupos
  · exact sends_sendByte (ck := ck + b) hk

/-- What a request is read from is not changed by its transfers. -/
theorem TxMoved.request {t : State} (h : TxMoved s t) :
    bufByte t = bufByte s ∧ t.offset = s.offset ∧ t.cfg = s.cfg := by
  obtain ⟨_, _, _, _, rfl⟩ := h
  exact ⟨rfl, rfl, rfl⟩

/-- TX_BODY with n bytes of BUF still to be sent, from address IDX on. -/
theorem sends_txBodyLoop (n : Nat) (hpos : s.pos = .start) (hcap : i.toNat + n ≤ s.cfg.capacity)
    (hi : i.toNat + n < 65536)
    (hk : ∀ t, TxMoved s t → t.pos = .start → Sends done bytes t
      (k (advanced (ck + sumBytes ((List.range' i.toNat n).map (bufByte s))) p (i + BitVec.ofNat 16 n) t))) :
    Sends done (stuffed ((List.range' i.toNat n).map (bufByte s)) ++ bytes) s
      (andThen (txBodyLoop n (advanced ck p i s)) k) := by
  induction n generalizing s ck i with
  | zero => simpa [txBodyLoop, andThen, sumBytes, stuffed, Sends] using hk s (.of_pos s _) hpos
  | succ n ih =>
    have hx : (i + 1).toNat = i.toNat + 1 := toNat_add_one_of_lt (n := 65535) (by omega) (by decide)
    have hlen : i + BitVec.ofNat 16 (n + 1) = i + 1 + BitVec.ofNat 16 n := by
      rw [Nat.add_comm, BitVec.ofNat_add, ← BitVec.add_assoc]
      rfl
    rw [List.range'_succ, List.map_cons, sumBytes_cons, ← BitVec.add_assoc, hlen, ← hx] at hk
    rw [List.range'_succ, List.map_cons, stuffed_cons, List.append_assoc, ← hx, txBodyLoop,
      readByte_eq _ _ _ (by show i.toNat < s.cfg.capacity; omega), andThen_assoc]
    refine sends_stuffAndWrite hpos fun t ht htpos => ?_
    obtain ⟨hbuf, _, hcfg⟩ := ht.request
    rw [← hbuf] at hk ⊢
    exact ih (s := t) htpos (by rw [hcfg]; omega) (by omega) fun u hu hupos => hk u (ht.trans hu) hupos

/-- The end of a `write_request` whose request has gone out. -/
def sentRequest (s : State) : Flow := .stop (returnSuccess .sent { s with checksum := 0xFF })

theorem sends_txStopPhase : Sends sentRequest [delimiter] s (txStopPhase (advanced 0xFF p i s)) :=
  sends_sendByte fun _ _ _ => rfl

theorem sends_txCsumPhase (hpos : s.pos = .start) :
    Sends sentRequest (symbol (~~~ ck) ++ [delimiter]) s (txCsumPhase (advanced ck p i s)) := by
  refine sends_stuffAndWrite hpos fun t _ _ => ?_
  rw [add_complement]
  exact sends_txStopPhase (i := 0)

theorem sends_txBodyPhase (hpos : s.pos = .start) (hcap : s.offset.toNat ≤ s.cfg.capacity) :
    Sends sentRequest
      (stuffed (bufPrefix s s.offset.toNat) ++ (symbol (checksumByte (bufPrefix s s.offset.toNat)) ++ [delimiter])) s
      (txBodyPhase (advanced 0 .txBody 0 s)) := by
  have hn : (advanced 0 .txBody 0 s).offset.toNat - (advanced 0 .txBody 0 s).idx.toNat = s.offset.toNat :=
    Nat.sub_zero _
  have hlt := s.offset.isLt
  rw [txBodyPhase, hn, bufPrefix, List.range_eq_range']
  refine sends_txBodyLoop (i := 0) _ hpos (by simpa using hcap) (by simp; omega) fun t _ htpos => ?_
  rw [zero_add]
  exact sends_txCsumPhase (i := 0) htpos

/-- A frame as `write_request` sends it, piece by piece. -/
theorem frameOf_eq_cons (l : List Byte) :
    frameOf l = delimiter :: (stuffed l ++ (symbol (checksumByte l) ++ [delimiter])) := by
  simp [frameOf, frameWith, stuffed, delimiter]

/-- The phases after TX_CHECK transmit the frame of the OFFSET bytes of BUF. -/
theorem sends_txStartPhase (hcap : s.offset.toNat ≤ s.cfg.capacity) :
    Sends sentRequest (frameOf (bufPrefix s s.offset.toNat)) s
      (txStartPhase (advanced 0 .txStart 0 s)) := by
  rw [frameOf_eq_cons]
  refine sends_sendByte fun t ht htpos => ?_
  obtain ⟨hbuf, hoff, hcfg⟩ := ht.request
  have hbody := sends_txBodyPhase htpos (by rw [hoff, hcfg]; exact hcap)
  rw [bufPrefix, hbuf, hoff] at hbody
  exact hbody

/-! ### The length check (R77) -/

/-- s when TX_CHECK has bound the port. -/
def checking (s : State) : State := { accept .txCheck s with io := .writer }

theorem exec_writeRequest_build (hm : s.mode = .build) (hc : 3 ≤ s.cfg.capacity) :
    exec .writeRequest s = outcome (
      if s.offset.toNat ≠ (bufByte s 2).toNat + 3 then .stop (fail .encodingError (checking s))
      else txStartPhase (toPhase .txStart (checking s))) := by
  show outcome (writeRequest s) = _
  rw [writeRequest, if_neg (not_not.2 hm), txCheckPhase, readByte_eq _ _ _ (by show 2 < s.cfg.capacity; omega)]
  rfl

/-- The request in BUF is one that `write_request` sends (R74, R77). -/
structure Sendable (s : State) : Prop where
  idle : Idle s
  mode : s.mode = .build
  checksum : s.checksum = 0
  capacity : s.offset.toNat ≤ s.cfg.capacity
  declared : s.offset.toNat = (bufByte s 2).toNat + 3

/-- A request that passes the check is transmitted. -/
theorem Sendable.sends (h : Sendable s) :
    ∃ f, exec .writeRequest s = outcome f ∧
      Sends sentRequest (frameOf (bufPrefix s s.offset.toNat)) (checking s) f := by
  have ⟨_, hm, hck, hcap, hlen⟩ := h
  refine ⟨txStartPhase (toPhase .txStart (checking s)), ?_, ?_⟩
  · rw [exec_writeRequest_build hm (by omega), if_neg (not_not.2 hlen)]
  · have hstart : toPhase .txStart (checking s) = advanced 0 .txStart 0 (checking s) := by
      rw [← hck]
      rfl
    rw [hstart]
    exact sends_txStartPhase (s := checking s) hcap

theorem getLastD_of_ne_nil {α : Type} {l : List α} (d e : α) (h : l ≠ []) : l.getLastD d = l.getLastD e := by
  rw [List.getLastD_eq_getLast?, List.getLastD_eq_getLast?, List.getLast?_eq_getLast_of_ne_nil h]
  rfl

/-- With every transfer accepted. -/
theorem Sendable.accepted {acc rest : List Status} (h : Sendable s) (hacc : AllAccepted acc)
    (hlen : acc.length = (frameOf (bufPrefix s s.offset.toNat)).length) (htx : s.txAnswers = acc ++ rest) :
    exec .writeRequest s = .next { s with
      io := .writer, checksum := 0xFF, lastIoStatus := acc.getLastD 0, result := 0, mode := .sent, txAnswers := rest,
      events := s.events ++ txEvents (frameOf (bufPrefix s s.offset.toNat)) acc } := by
  obtain ⟨f, hf, hsends⟩ := h.sends
  have hne : acc ≠ [] := List.ne_nil_of_length_pos (by rw [hlen, length_frameOf]; omega)
  obtain ⟨hbusy, hphase, hidx, hpos, hcopy⟩ := h.idle
  rw [hf, hsends.accepted rfl hacc hlen htx, getLastD_of_ne_nil _ 0 hne]
  simp [outcome, sentRequest, returnSuccess, endOperation, transmitted, checking, accept, hbusy, hphase, hidx, hpos,
    hcopy]

/-- With a transfer refused. -/
theorem Sendable.refused {acc rest : List Status} {bad : Status} (h : Sendable s) (hacc : AllAccepted acc)
    (hbad : bad.toInt < 1) (hlen : acc.length < (frameOf (bufPrefix s s.offset.toNat)).length)
    (htx : s.txAnswers = acc ++ [bad] ++ rest) :
    ∃ ck, exec .writeRequest s = .next { s with
      io := .writer, checksum := ck, lastIoStatus := bad, mode := .invalid, txAnswers := rest,
      result := s.cfg.errorCodes.transmitIncomplete,
      events := s.events ++ txEvents (frameOf (bufPrefix s s.offset.toNat)) (acc ++ [bad]) } := by
  obtain ⟨f, hf, hsends⟩ := h.sends
  obtain ⟨ck, hstop⟩ := hsends.refused hacc hbad hlen htx
  obtain ⟨hbusy, hphase, hidx, hpos, hcopy⟩ := h.idle
  refine ⟨ck, ?_⟩
  rw [hf, hstop]
  simp [outcome, fail, errorCode, endOperation, transmitted, checking, accept, hbusy, hphase, hidx, hpos, hcopy]

/-! ### The wire -/

theorem sentByte_accepted {b : Byte} {a : Status} (h : 1 ≤ a.toInt) : sentByte (.tx b a) = some b := by
  have : ¬ refusedStatus a = true := by rw [refusedStatus_iff]; omega
  exact if_neg this

theorem sentByte_refused {b : Byte} {a : Status} (h : a.toInt < 1) : sentByte (.tx b a) = none :=
  if_pos ((refusedStatus_iff a).2 h)

/-- Accepted transfers put their bytes on the wire, and the others come after them. -/
theorem wireOutput_txEvents_append {acc : List Status} (hacc : AllAccepted acc) (bytes : List Byte)
    (later : List Status) :
    wireOutput (txEvents bytes (acc ++ later)) =
      bytes.take acc.length ++ wireOutput (txEvents (bytes.drop acc.length) later) := by
  induction acc generalizing bytes with
  | nil => rfl
  | cons a acc ih =>
    cases bytes with
    | nil => rfl
    | cons b bytes =>
      have htail := ih (fun x hx => hacc x (List.mem_cons_of_mem _ hx)) bytes
      have hb := sentByte_accepted (b := b) (hacc a List.mem_cons_self)
      exact (List.filterMap_cons_some hb).trans (congrArg (b :: ·) htail)

theorem wireOutput_accepted {acc : List Status} (hacc : AllAccepted acc) {bytes : List Byte}
    (hlen : acc.length = bytes.length) : wireOutput (txEvents bytes acc) = bytes := by
  have h := wireOutput_txEvents_append hacc bytes []
  rw [List.append_nil, hlen, List.take_length, List.drop_length] at h
  exact h.trans (List.append_nil bytes)

/-- A refused transfer puts nothing on the wire (R9). -/
theorem wireOutput_refused {acc : List Status} {bad : Status} (hacc : AllAccepted acc) (hbad : bad.toInt < 1)
    (bytes : List Byte) : wireOutput (txEvents bytes (acc ++ [bad])) = bytes.take acc.length := by
  have hnone : wireOutput (txEvents (bytes.drop acc.length) [bad]) = [] := by
    cases bytes.drop acc.length with
    | nil => rfl
    | cons b later => simp [txEvents, wireOutput, sentByte_refused hbad]
  rw [wireOutput_txEvents_append hacc, hnone, List.append_nil]

end Sys2Proof.Machine

open Sys2Proof Sys2Proof.Machine

/-- Settles O29: a request that passes the check offers the bytes of its frame one by one. -/
theorem writeRequestSendsTheFrame : Obligations.WriteRequestSendsTheFrame :=
  fun _ _ _ hi hm hck hcap hdecl hacc hlen htx => Sendable.accepted ⟨hi, hm, hck, hcap, hdecl⟩ hacc hlen htx

/-- Settles O30: the check fails before the first transfer, and BUF[2] is one byte. -/
theorem writeRequestLengthMismatch : Obligations.WriteRequestLengthMismatch := by
  intro s ⟨hbusy, hphase, hidx, hpos, hcopy⟩ hm hc
  refine ⟨fun hne => ?_, fun hlong => ?_⟩
  · rw [exec_writeRequest_build hm hc, if_pos hne]
    simp [outcome, fail, errorCode, endOperation, checking, accept, hbusy, hphase, hidx, hpos, hcopy]
  · have := (bufByte s 2).isLt
    omega

/-- Settles O31: the transfers stop at the first refusal, and what was accepted before it is on the wire. -/
theorem writeRequestAbortsOnRefusal : Obligations.WriteRequestAbortsOnRefusal := by
  intro s acc rest bad hi hm hck hcap hdecl hacc hbad hlen htx
  obtain ⟨ck, hexec⟩ := Sendable.refused ⟨hi, hm, hck, hcap, hdecl⟩ hacc hbad hlen htx
  exact ⟨_, hexec, rfl, wireOutput_refused hacc hbad _⟩
end

section
/-! PROOFS. The round trip (42_decoder.md R98, 90_conflicts.md C4): a frame delivered without gaps is received, and what
`begin_stream` and `add_bytes` compose is what `write_request` sends. -/

namespace Sys2Proof.Machine

/-! ### A frame without gaps -/

theorem Delivers.split {answers : List RxAnswer} {b b' : List Byte} (h : Delivers answers (b ++ b')) :
    ∃ a a', answers = a ++ a' ∧ Delivers a b ∧ Delivers a' b' := by
  obtain ⟨hdata, hpos⟩ := h
  obtain ⟨a, a', rfl, ha, ha'⟩ := List.map_eq_append_iff.1 hdata
  exact ⟨a, a', rfl, ⟨ha, fun x hx => hpos x (List.mem_append_left _ hx)⟩,
    ⟨ha', fun x hx => hpos x (List.mem_append_right _ hx)⟩⟩

theorem Delivers.exists_singleton {answers : List RxAnswer} {b : Byte} (h : Delivers answers [b]) :
    ∃ a, answers = [a] := by
  obtain ⟨hdata, _⟩ := h
  exact List.length_eq_one_iff.1 (by simpa using congrArg List.length hdata)

/-- Answers that deliver the symbols of bytes are the answers of symbols that bring them. -/
theorem Delivers.symbols {answers : List RxAnswer} {bytes : List Byte} (h : Delivers answers (stuffed bytes)) :
    ∃ l : List RxSymbol, answers = symbolsAnswers l ∧ (∀ x ∈ l, x.ok) ∧ l.map RxSymbol.value = bytes := by
  induction bytes generalizing answers with
  | nil =>
    obtain ⟨hdata, _⟩ := h
    exact ⟨[], List.map_eq_nil_iff.1 hdata, fun x hx => absurd hx List.not_mem_nil, rfl⟩
  | cons b bytes ih =>
    rw [stuffed_cons] at h
    obtain ⟨a, a', rfl, ha, ha'⟩ := h.split
    obtain ⟨l, rfl, hok, hval⟩ := ih ha'
    refine ⟨⟨a, b⟩ :: l, rfl, fun x hx => ?_, congrArg (b :: ·) hval⟩
    rcases List.mem_cons.1 hx with rfl | hx
    · exact RxSymbol.ok_of_delivers ha
    · exact hok x hx

/-- A payload symbol that arrives without a retry. -/
def Arrival.prompt (x : RxSymbol) : Arrival := ⟨[], x⟩

theorem arrivals_prompt (l : List RxSymbol) :
    arrivalAnswers (l.map Arrival.prompt) = symbolsAnswers l ∧ arrivalRetries (l.map Arrival.prompt) = 0 ∧
      (l.map Arrival.prompt).map Arrival.value = l.map RxSymbol.value := by
  induction l with
  | nil => exact ⟨rfl, rfl, rfl⟩
  | cons x l ih =>
    obtain ⟨ha, hr, hv⟩ := ih
    refine ⟨?_, ?_, ?_⟩
    · rw [List.map_cons, arrivalAnswers_cons, ha]
      rfl
    · rw [List.map_cons, arrivalRetries_cons, hr]
      rfl
    · rw [List.map_cons, List.map_cons, hv]
      rfl

theorem stuffed_append (a b : List Byte) : stuffed (a ++ b) = stuffed a ++ stuffed b := List.flatMap_append

theorem allNoData_nil : AllNoData [] := fun _ h => absurd h List.not_mem_nil

/-- A response frame delivered without gaps is received. -/
theorem readResponse_frame {s : State} {e : Byte} {limit : BitVec 16} {hdr : RxHeader} {payload : List Byte}
    {answers rest : List RxAnswer} (hi : Idle s) (hlen : payload.length = hdr.dataLen.toNat)
    (hexp : hdr.dataLen.toNat ≤ e.toNat) (hcap : payload.length ≤ s.cfg.capacity) (hst : hdr.state &&& 0x7F = 0)
    (hlimit : 1 ≤ limit.toNat) (hrx : s.rxAnswers = answers ++ rest)
    (hd : Delivers answers (frameOf (headerBytes hdr ++ payload))) :
    ∃ u, exec (.readResponse e limit) s = .next u ∧ u.result = 0 ∧ u.mode = .received ∧ u.hdr = hdr ∧
      u.offset.toNat = payload.length ∧ u.rxAnswers = rest ∧
      ∀ k (h : k < payload.length), bufByte u k = payload[k] := by
  rw [frameOf, frameWith, stuffed_append, stuffed_append] at hd
  obtain ⟨_, astop, rfl, hd, hstop⟩ := hd.split
  obtain ⟨astart, _, rfl, hstart, hd⟩ := hd.split
  obtain ⟨_, acheck, rfl, hd, hcheck⟩ := hd.split
  obtain ⟨ahead, abody, rfl, hhead, hbody⟩ := hd.split
  obtain ⟨stop, rfl⟩ := hstop.exists_singleton
  obtain ⟨start, rfl⟩ := hstart.exists_singleton
  obtain ⟨lh, rfl, hhok, hhval⟩ := hhead.symbols
  obtain ⟨lb, rfl, hbok, hbval⟩ := hbody.symbols
  obtain ⟨hba, hbr, hbv⟩ := arrivals_prompt lb
  rw [hbval] at hbv
  have hplen : (lb.map Arrival.prompt).length = payload.length := by
    rw [← hbval, List.length_map, List.length_map]
  rw [stuffed_cons, show stuffed [] = [] from rfl, List.append_nil] at hcheck
  have hpok : ∀ a ∈ lb.map Arrival.prompt, a.ok = true := by
    intro a ha
    obtain ⟨x, hx, rfl⟩ := List.mem_map.1 ha
    exact (Arrival.ok_iff _).2 ⟨fun r hr => absurd hr List.not_mem_nil, hbok x hx⟩
  obtain ⟨u, hu, heq, hin, _⟩ := readResponseReceives s e limit ⟨[], start, lh, hdr⟩ (lb.map Arrival.prompt)
    ⟨acheck, checksumByte (headerBytes hdr ++ payload)⟩ stop rest hi ⟨allNoData_nil, hstart, hhok, hhval⟩ hpok
    (hplen.trans hlen) hexp (hlen ▸ hcap) hst (RxSymbol.ok_of_delivers hcheck) (by rw [responseBytes, hbv]) hstop
    (by rw [hbr]; exact hlimit) (by rw [hbr]; exact Nat.zero_le _) (by rw [hrx, hba]; simp [Opening.answers])
  rw [hbv] at hin
  refine ⟨u, hu, by rw [heq], by rw [heq], by rw [heq], ?_, by rw [heq], hin⟩
  have := hdr.dataLen.isLt
  rw [heq]
  show (BitVec.ofNat 16 _).toNat = _
  rw [hplen, BitVec.toNat_ofNat]
  omega

/-- The frame of a request with a zero state byte put between the symbols of its command and its length. -/
theorem response_of_request (address command length : Byte) (payload : List Byte) :
    [0x7E] ++ symbol address ++ symbol command ++ [0x00] ++
      (frameOf ([address, command, length] ++ payload)).drop (1 + (symbol address ++ symbol command).length) =
    frameOf (headerBytes ⟨address, command, 0x00, length⟩ ++ payload) := by
  have hsum : checksumByte (headerBytes ⟨address, command, 0x00, length⟩ ++ payload) =
      checksumByte ([address, command, length] ++ payload) := by
    simp [checksumByte, headerBytes, sumBytes_cons]
  have hzero : symbol 0#8 = [0#8] := rfl
  have hdrop : ∀ rest : List Byte, ([0x7E] ++ (symbol address ++ symbol command) ++ rest).drop
      (1 + (symbol address ++ symbol command).length) = rest := fun rest => List.drop_left' (by simp; omega)
  have hreq : frameOf ([address, command, length] ++ payload) = [0x7E] ++ (symbol address ++ symbol command) ++
      (symbol length ++ stuffed (payload ++ [checksumByte ([address, command, length] ++ payload)]) ++ [0x7E]) := by
    simp [frameOf, frameWith, stuffed_cons]
  rw [hreq, hdrop, frameOf, hsum]
  simp [frameWith, headerBytes, stuffed_cons, hzero]

/-! ### The request -/

theorem bufPrefix_eq {t : State} {l : List Byte} (h : ∀ k (hk : k < l.length), bufByte t k = l[k]) :
    bufPrefix t l.length = l := by
  refine List.ext_getElem (by simp [bufPrefix]) fun k hk hkl => ?_
  simp [bufPrefix, h k hkl]

section

variable {s t : State} {address command length : Byte} {payload : List Byte}

theorem composed_offset (ht : Appended { begun command address length s with dataPort := [] } t payload)
    (hlen : payload.length = length.toNat) : t.offset.toNat = payload.length + 3 := by
  obtain ⟨_, _, _, _, hoff⟩ := ht.frame
  have := length.isLt
  rw [hoff]
  show (BitVec.ofNat 16 (3 + payload.length)).toNat = _
  rw [BitVec.toNat_ofNat]
  omega

/-- The bytes of the request stand in BUF in the order of the frame (R46). -/
theorem composed_bytes (ht : Appended { begun command address length s with dataPort := [] } t payload)
    (hc : 3 ≤ s.cfg.capacity) (k : Nat) (hk : k < ([address, command, length] ++ payload).length) :
    bufByte t k = ([address, command, length] ++ payload)[k] := by
  obtain ⟨_, hin, hout⟩ := ht
  obtain ⟨hhead, _⟩ := payloadStored_begun (command := command) (address := address) (dataLength := length) hc
  rw [List.getElem_append]
  split
  · next hlt => exact (hout k (.inl hlt)).trans (hhead k hlt)
  · next hge =>
    have hk3 : 3 + (k - 3) = k := Nat.add_sub_cancel' (Nat.le_of_not_lt hge)
    rw [List.length_append] at hk
    have := hin (k - 3) (Nat.sub_lt_left_of_lt_add (Nat.le_of_not_lt hge) hk)
    rwa [show (begun command address length s).offset.toNat = 3 from rfl, hk3] at this

/-- What `begin_stream` and then `add_bytes` leave is a request that `write_request` sends, its bytes those given. -/
theorem request_composed (ht : Appended { begun command address length s with dataPort := [] } t payload)
    (hi : Idle s) (hc : payload.length + 3 ≤ s.cfg.capacity) (hlen : payload.length = length.toNat) :
    Sendable t ∧ bufPrefix t t.offset.toNat = [address, command, length] ++ payload ∧
      t.events = s.events ∧ t.cfg = s.cfg ∧ t.txAnswers = s.txAnswers ∧ t.rxAnswers = s.rxAnswers := by
  have hoff := composed_offset ht hlen
  have hbytes := composed_bytes ht (by omega)
  have hdeclared : bufByte t 2 = length := hbytes 2 (by simp)
  obtain ⟨hidle, hmode, hcfg, _, _⟩ := ht.frame
  obtain ⟨heq, _, _⟩ := ht
  refine ⟨⟨hidle hi, hmode, ?_, ?_, ?_⟩, ?_, ?_, hcfg, ?_, ?_⟩
  · rw [heq]
    rfl
  · rw [hoff, hcfg]
    exact hc
  · rw [hoff, hdeclared, hlen]
  · rw [hoff]
    exact bufPrefix_eq (l := [address, command, length] ++ payload) hbytes
  all_goals
    rw [heq]
    rfl

end

theorem execAll_cons {i : Instr} {program : List Instr} {s t : State} (h : exec i s = .next t) :
    execAll (i :: program) s = execAll program t := by
  rw [execAll, h]

/-- The three operations of a request: it is composed and sent, and its wire output is its frame. -/
theorem request_sent {s : State} {address command length : Byte} {payload : List Byte} {acc : List Status}
    (hi : Idle s) (hc : payload.length + 3 ≤ s.cfg.capacity) (hlen : payload.length = length.toNat)
    (hport : s.dataPort = payload) (hacc : AllAccepted acc)
    (hframe : acc.length = (frameOf ([address, command, length] ++ payload)).length) (htx : s.txAnswers = acc) :
    ∃ t, execAll [.beginStream command address length, .addBytes (length.setWidth 16), .writeRequest] s = .next t ∧
      t.result = 0 ∧ t.events = s.events ++ txEvents (frameOf ([address, command, length] ++ payload)) acc ∧
      Idle t ∧ t.cfg = s.cfg ∧ t.rxAnswers = s.rxAnswers := by
  have hwidth : (length.setWidth 16).toNat = payload.length := by
    rw [BitVec.toNat_setWidth, hlen]
    have := length.isLt
    omega
  obtain ⟨t, hadd, happ⟩ := addBytes_appends (s := begun command address length s) (length := length.setWidth 16)
    (e := payload) (rest := []) hi rfl (by rw [hwidth]; show 3 + _ ≤ s.cfg.capacity; omega)
    (hport.trans (List.append_nil payload).symm) hwidth.symm
  obtain ⟨hsend, hbytes, hev, hcfg, htxt, hrxt⟩ := request_composed happ hi hc hlen
  have hwrite := hsend.accepted (rest := []) hacc (by rw [hbytes]; exact hframe) (by rw [htxt, htx, List.append_nil])
  rw [hbytes, hev] at hwrite
  exact ⟨_, (execAll_cons (exec_beginStream hi (by omega))).trans ((execAll_cons hadd).trans (execAll_cons hwrite)),
    rfl, rfl, hsend.idle, hcfg, hrxt⟩

end Sys2Proof.Machine

open Sys2Proof Sys2Proof.Machine

/-- Settles O52: the frame of the request, with a zero state byte, is the frame of the response that is received. -/
theorem requestRoundTrip : Obligations.RequestRoundTrip := by
  intro s address command length e limit payload acc answers rest hi _ hlen hc hexp hlimit hport hacc hframe htx hrx
  obtain ⟨t, ht, hresult, hev, hidle, hcfg, hrxt⟩ := request_sent hi hc hlen hport hacc hframe htx
  refine ⟨t, frameOf ([address, command, length] ++ payload), ht, hresult, hev, wireOutput_accepted hacc hframe,
    fun hd => ?_⟩
  rw [response_of_request] at hd
  exact readResponse_frame hidle hlen hexp (by rw [hcfg]; omega) BitVec.zero_and hlimit (hrxt.trans hrx) hd
end

section
/-! PROOFS. The un-stuff step (42_decoder.md R85). -/

namespace Sys2Proof.Machine

/-- Reads from the start of a symbol leave the position there. -/
theorem heard_eq {s : State} (hp : s.pos = .start) (rest : List RxAnswer) (last : Status) (new : List Event)
    (ck : Byte) : heard s rest last new ck =
      { s with rxAnswers := rest, lastIoStatus := last, events := s.events ++ new, checksum := ck } := by
  rw [heard, ← hp]

end Sys2Proof.Machine

open Sys2Proof Sys2Proof.Machine

/-- Settles O34: a symbol that brings no byte, or a symbol that brings one, in either form. -/
theorem unstuffStep : Obligations.UnstuffStep := by
  intro s a a2 rest hp
  refine ⟨fun ha h => ?_, fun ha hd h => ?_, fun ha hd ha2 h => ?_, fun ha hd ha2 h => ?_⟩
  · rw [unstuff_broken (c := [a]) hp (.inl ⟨a, rfl, ha⟩) h, heard_eq hp]
    rfl
  · rw [unstuff_symbol (x := ⟨[a], a.data⟩) hp ((RxSymbol.ok_iff _).2 (.inl ⟨a, rfl, ha, hd, rfl⟩)) h, heard_eq hp]
    rfl
  · rw [unstuff_broken (c := [a, a2]) hp (.inr ⟨a, a2, rfl, ha, hd, ha2⟩) h, heard_eq hp]
    rfl
  · rw [unstuff_symbol (x := ⟨[a, a2], a2.data ^^^ 0x20⟩) hp
      ((RxSymbol.ok_iff _).2 (.inr ⟨a, a2, rfl, ha, hd, ha2, rfl⟩)) h, heard_eq hp]
    rfl
end

section
/-! PROOFS. A `read_response` whose transport stays silent or does not synchronise, and one whose header breaks off
(42_decoder.md R87, R88). -/

namespace Sys2Proof.Machine

variable {s : State} {e : Byte} {limit : BitVec 16} {rest : List RxAnswer}

/-- Phase 1 on no-data answers within the budget. -/
theorem exec_readResponse_noData {z : List RxAnswer} (hz : AllNoData z) (hbudget : z.length ≤ limit.toNat)
    (hsleep : z.length ≤ s.sleepAnswers) (h : s.rxAnswers = z ++ rest) :
    exec (.readResponse e limit) s = outcome (andThen
      (rxP1Loop (limit.toNat - z.length) (retried (enterResponse e limit s) z.length (noDataEvents z) rest))
      fun t => rxP2Phase (toPhase .rxP2 t)) := by
  have hrounds : (enterResponse e limit s).budget.toNat = limit.toNat - z.length + z.length :=
    (Nat.sub_add_cancel hbudget).symm
  show outcome (rxP1Phase (enterResponse e limit s)) = _
  rw [rxP1Phase_awake rfl, hrounds, rxP1Loop_retry _ (enterResponse e limit s) z rest rfl hz hsleep h]

/-- A transport error and a first byte that is no delimiter end Phase 1. -/
theorem rxP1Loop_fails {n : Nat} {a : RxAnswer} (ha : a.status.toInt < 0 ∨ (0 < a.status.toInt ∧ a.data ≠ 0x7E))
    (h : s.rxAnswers = a :: rest) :
    rxP1Loop (n + 1) s = .stop (fail .missingStart (heard s rest a.status [.rx a] s.checksum)) := by
  rw [rxP1Loop, rxByte_got h]
  dsimp only
  rw [heard_lastIoStatus]
  rcases ha with herr | ⟨hpos, hdata⟩
  · rw [if_pos ((errorStatus_iff _).2 herr)]
  · have hzero : a.status ≠ 0 := fun h0 => by simp [h0] at hpos
    rw [if_neg (errorStatus_nonneg (Int.le_of_lt hpos)), if_neg hzero, if_pos (show a.data ≠ delimiter from hdata)]

/-- The bytes of HDR written so far, and the old ones after them. -/
theorem headerBytes_fillHeader {bytes : List Byte} (hlen : bytes.length < 4) (h : RxHeader) :
    headerBytes (fillHeader 0 bytes h) = bytes ++ (headerBytes h).drop bytes.length := by
  match bytes, hlen with
  | [], _ => rfl
  | [_], _ => rfl
  | [_, _], _ => rfl
  | [_, _, _], _ => rfl

/-- Phase 2 on fewer than four header symbols and one that brings no byte. -/
theorem rxP2Phase_breaks {l : List RxSymbol} {broken : List RxAnswer} (hp : s.pos = .start) (hi : s.idx = 0)
    (hlen : l.length < 4) (hok : ∀ x ∈ l, x.ok) (hb : BrokenSymbol broken)
    (h : s.rxAnswers = symbolsAnswers l ++ (broken ++ rest)) :
    rxP2Phase s = .stop (fail .missingStop (heard (headed s l (broken ++ rest)) rest (lastStatus broken)
      (rxEvents broken) (headed s l (broken ++ rest)).checksum)) := by
  obtain ⟨n, hn⟩ : ∃ n, 4 = n + 1 + l.length := ⟨3 - l.length, by omega⟩
  have hi0 : s.idx.toNat = 0 := by simp [hi]
  have hrounds : 4 - s.idx.toNat = n + 1 + l.length := by omega
  rw [rxP2Phase, hrounds, rxP2Loop_symbols (n + 1) l hp hok (by omega) h, rxP2Loop,
    unstuff_broken (rest := rest) rfl hb rfl]
  rfl

end Sys2Proof.Machine

open Sys2Proof Sys2Proof.Machine

/-- Settles O36: the budget is used up before the start delimiter. -/
theorem silentTransportIsMissingStart : Obligations.SilentTransportIsMissingStart := by
  intro s e limit z rest ⟨hbusy, hphase, hidx, hpos, hcopy⟩ hz hlen hsleep h
  rw [exec_readResponse_noData hz hlen.le (hlen.trans_le hsleep) h, hlen, Nat.sub_self, rxP1Loop]
  simp [outcome, andThen, fail, errorCode, endOperation, retried, enterResponse, accept, hbusy, hphase, hidx, hpos,
    hcopy]

/-- Settles O37: the first answer after the no-data answers ends Phase 1. -/
theorem failedSynchronisationIsMissingStart : Obligations.FailedSynchronisationIsMissingStart := by
  intro s e limit z a rest ⟨hbusy, hphase, hidx, hpos, hcopy⟩ hz hbudget hsleep ha h
  obtain ⟨n, hn⟩ : ∃ n, limit.toNat - z.length = n + 1 := ⟨limit.toNat - z.length - 1, by omega⟩
  rw [exec_readResponse_noData (rest := a :: rest) hz hbudget.le hsleep (by simpa using h), hn,
    rxP1Loop_fails (rest := rest) ha rfl]
  simp [outcome, andThen, fail, errorCode, endOperation, heard, retried, enterResponse, accept, rxEvents, hbusy, hphase,
    hidx, hpos, hcopy]

/-- Settles O38: Phase 1 synchronises, and Phase 2 has no retry. -/
theorem brokenHeaderIsMissingStop : Obligations.BrokenHeaderIsMissingStop := by
  intro s e limit z start l broken rest ⟨hbusy, hphase, hidx, hpos, hcopy⟩ hz hbudget hsleep hstart hlen hok hb h
  have hfirst : (enterResponse e limit s).rxAnswers = z ++ start :: (symbolsAnswers l ++ (broken ++ rest)) := by
    rw [enterResponse_rxAnswers, h]
    simp
  have hexec : exec (.readResponse e limit) s = outcome (rxP1Phase (enterResponse e limit s)) := rfl
  rw [hexec, rxP1Phase_synchronises (s := enterResponse e limit s) rfl hz hstart hbudget hsleep hfirst,
    rxP2Phase_breaks rfl rfl hlen hok hb rfl]
  refine ⟨_, rfl, ?_, ?_⟩
  · simp [fail, errorCode, endOperation, headed, heard, retried, toPhase, enterResponse, accept, rxEvents, lastStatus,
      hbusy, hphase, hidx, hpos, hcopy]
  · have hbytes := headerBytes_fillHeader (bytes := l.map RxSymbol.value) (by simpa using hlen) s.hdr
    rw [List.length_map] at hbytes
    exact hbytes
end

section
/-! PROOFS. A `read_response` that ends in its payload (42_decoder.md R90): the budget used up, a transport error, a
byte beyond CAPACITY. -/

namespace Sys2Proof.Machine

variable {s : State} {e : Byte} {limit : BitVec 16} {o : Opening} {p : List Arrival} {z : List Retry}
  {rest : List RxAnswer}

/-- Phase 4 on fewer payload bytes than are to come, and then on retries: it has rounds left. -/
theorem rxP4Phase_retries (hp : s.pos = .start) (hok : ∀ a ∈ p, a.ok) (ho : s.offset = 0)
    (hlen : p.length < s.hdr.dataLen.toNat) (hc : p.length ≤ s.cfg.capacity) (hz : ∀ r ∈ z, r.ok)
    (hopen : arrivalRetries p < s.budget.toNat) (hb : arrivalRetries p + z.length ≤ s.budget.toNat)
    (hs : arrivalRetries p + z.length ≤ s.sleepAnswers)
    (h : s.rxAnswers = arrivalAnswers p ++ (retryAnswers z ++ rest)) :
    ∃ n, rxP4Phase s = andThen
      (rxP4Loop (n + 1) (retried (arrived s p (retryAnswers z ++ rest)) z.length (retryEvents z) rest)) rxP4Exit := by
  have ho0 : s.offset.toNat = 0 := by simp [ho]
  have hlater : (arrived s p (retryAnswers z ++ rest)).offset.toNat = p.length := by
    have := s.hdr.dataLen.isLt
    show (s.offset + BitVec.ofNat 16 p.length).toNat = _
    rw [BitVec.toNat_add, ho0, BitVec.toNat_ofNat]
    omega
  have hleft : (arrived s p (retryAnswers z ++ rest)).budget.toNat = s.budget.toNat - arrivalRetries p :=
    toNat_sub_ofNat (by omega)
  obtain ⟨n, hn⟩ : ∃ n, payloadRounds s = n + 1 + z.length + p.length + arrivalRetries p := by
    rw [payloadRounds, ho0]
    exact ⟨s.hdr.dataLen.toNat - p.length - 1 + (s.budget.toNat - arrivalRetries p - z.length), by omega⟩
  refine ⟨n, ?_⟩
  rw [rxP4Phase_awake (.inl hp), hn, rxP4Loop_arrivals _ hp hok (by omega) (by omega) hopen (by omega) h,
    rxP4Loop_retry (n + 1) _ z rest rfl hz ?_ (by omega) ?_ rfl]
  · show z.length ≤ s.sleepAnswers - arrivalRetries p
    omega
  · rw [hlater]
    exact hlen

/-- What arrives is an opening, fewer payload bytes than it declares, and retries, as many as the budget allows. -/
structure ArrivesShort (s : State) (e : Byte) (limit : BitVec 16) (o : Opening) (p : List Arrival) (z : List Retry)
    (rest : List RxAnswer) : Prop where
  opening : o.ok
  payload : ∀ a ∈ p, a.ok
  short : p.length < o.hdr.dataLen.toNat
  expected : o.hdr.dataLen.toNat ≤ e.toNat
  fits : p.length ≤ s.cfg.capacity
  retries : ∀ r ∈ z, r.ok
  stillOpen : o.retries + arrivalRetries p < limit.toNat
  budget : o.retries + arrivalRetries p + z.length ≤ limit.toNat
  slept : o.retries + arrivalRetries p + z.length ≤ s.sleepAnswers
  answers : s.rxAnswers = o.answers ++ (arrivalAnswers p ++ (retryAnswers z ++ rest))

/-- s when the opening, the payload bytes and the retries have been heard, in Phase 4. -/
def stalled (s : State) (e : Byte) (limit : BitVec 16) (o : Opening) (p : List Arrival) (z : List Retry)
    (rest : List RxAnswer) : State :=
  retried (arrived (toPhase .rxP4 (opened s e limit o (arrivalAnswers p ++ (retryAnswers z ++ rest)))) p
    (retryAnswers z ++ rest)) z.length (retryEvents z) rest

theorem ArrivesShort.offset_toNat (h : ArrivesShort s e limit o p z rest) :
    (stalled s e limit o p z rest).offset.toNat = p.length := by
  have := o.hdr.dataLen.isLt
  have := h.short
  show (0#16 + BitVec.ofNat 16 p.length).toNat = p.length
  rw [BitVec.zero_add, BitVec.toNat_ofNat]
  omega

theorem ArrivesShort.budget_toNat (h : ArrivesShort s e limit o p z rest) :
    (stalled s e limit o p z rest).budget.toNat = limit.toNat - (o.retries + arrivalRetries p + z.length) := by
  have := h.budget
  have hopening := toNat_sub_ofNat (x := limit) (n := o.retries) (by omega)
  have hpayload := toNat_sub_ofNat (x := limit - BitVec.ofNat 16 o.retries) (n := arrivalRetries p) (by omega)
  show (limit - BitVec.ofNat 16 o.retries - BitVec.ofNat 16 (arrivalRetries p) - BitVec.ofNat 16 z.length).toNat = _
  rw [toNat_sub_ofNat (by omega)]
  omega

theorem ArrivesShort.payloadOpen (h : ArrivesShort s e limit o p z rest)
    (hz : o.retries + arrivalRetries p + z.length < limit.toNat) : PayloadOpen (stalled s e limit o p z rest) := by
  refine ⟨h.offset_toNat.trans_lt h.short, ?_⟩
  rw [h.budget_toNat]
  omega

theorem stalled_checksum : (stalled s e limit o p z rest).checksum = sumBytes (responseBytes o p) :=
  (sumBytes_append _ _).symm

/-- BUF holds the payload bytes that came. -/
theorem ArrivesShort.stored (h : ArrivesShort s e limit o p z rest) {t : State}
    (hb : t.buf = (stalled s e limit o p z rest).buf) (hr : t.resets = s.resets) :
    PayloadStored s t (p.map Arrival.value) :=
  payloadStored_putAll (by rw [List.length_map]; exact h.fits) hb hr

/-- Phases 1 to 4 on what arrives: Phase 4 has rounds left. -/
theorem ArrivesShort.exec_eq (h : ArrivesShort s e limit o p z rest) :
    ∃ n, exec (.readResponse e limit) s =
      outcome (andThen (rxP4Loop (n + 1) (stalled s e limit o p z rest)) rxP4Exit) := by
  obtain ⟨ho, hp, hlen, hexp, hc, hz, hopen, hbudget, hsleep, hrx⟩ := h
  have hopening := toNat_sub_ofNat (x := limit) (n := o.retries) (by omega)
  obtain ⟨n, hn⟩ := rxP4Phase_retries (z := z) (rest := rest)
    (s := toPhase .rxP4 (opened s e limit o (arrivalAnswers p ++ (retryAnswers z ++ rest)))) rfl hp rfl hlen hc hz
    (by show _ < (limit - BitVec.ofNat 16 o.retries).toNat; omega)
    (by show _ ≤ (limit - BitVec.ofNat 16 o.retries).toNat; omega)
    (by show _ ≤ s.sleepAnswers - o.retries; omega) rfl
  refine ⟨n, ?_⟩
  rw [exec_readResponse_opening ho (by omega) (by omega) hrx, rxP3Phase, if_neg (by exact Nat.not_lt.2 hexp), hn]
  rfl

/-- The budget is used up. -/
theorem ArrivesShort.exhausted (h : ArrivesShort s e limit o p z rest)
    (hz : o.retries + arrivalRetries p + z.length = limit.toNat) :
    exec (.readResponse e limit) s = .next (fail .encodingError (stalled s e limit o p z rest)) := by
  obtain ⟨n, hn⟩ := h.exec_eq
  have hclosed : ¬ PayloadOpen (stalled s e limit o p z rest) := fun ⟨_, hb⟩ => by
    rw [h.budget_toNat] at hb
    omega
  have hmissing : (stalled s e limit o p z rest).offset.toNat < (stalled s e limit o p z rest).hdr.dataLen.toNat :=
    h.offset_toNat.trans_lt h.short
  rw [hn, rxP4Loop_closed hclosed, andThen, rxP4Exit, if_pos hmissing]
  rfl

theorem ErrorSymbol.broken {c : List RxAnswer} (h : ErrorSymbol c) : BrokenSymbol c := by
  rcases h with ⟨a, rfl, ha⟩ | ⟨m, a, rfl, hm, hmd, ha⟩
  · exact .inl ⟨a, rfl, Int.le_of_lt ha⟩
  · exact .inr ⟨m, a, rfl, hm, hmd, Int.le_of_lt ha⟩

theorem ErrorSymbol.lastStatus {c : List RxAnswer} (h : ErrorSymbol c) :
    errorStatus (Machine.lastStatus c) = true := by
  rw [errorStatus_iff]
  rcases h with ⟨a, rfl, ha⟩ | ⟨m, a, rfl, _, _, ha⟩
  · exact ha
  · exact ha

/-- A transport error is not retried. -/
theorem ArrivesShort.broken {c : List RxAnswer} (h : ArrivesShort s e limit o p z (c ++ rest)) (hc : ErrorSymbol c)
    (hz : o.retries + arrivalRetries p + z.length < limit.toNat) :
    exec (.readResponse e limit) s = .next (fail .missingStop
      (heard (stalled s e limit o p z (c ++ rest)) rest (lastStatus c) (rxEvents c)
        (sumBytes (responseBytes o p)))) := by
  obtain ⟨n, hn⟩ := h.exec_eq
  rw [hn, rxP4Loop_silent (h.payloadOpen hz) (unstuff_broken (rest := rest) rfl hc.broken rfl), heard_lastIoStatus,
    if_pos hc.lastStatus, stalled_checksum]
  rfl

/-- A payload byte for an address of CAPACITY is not stored. -/
theorem storePayload_overruns (v : Byte) (h : s.cfg.capacity ≤ s.offset.toNat) :
    storePayload v s = .stop (raiseFault .bufferOverrun s) :=
  if_pos h

/-- A payload byte beyond CAPACITY. -/
theorem ArrivesShort.overruns {x : RxSymbol} (h : ArrivesShort s e limit o p z (x.answers ++ rest)) (hx : x.ok = true)
    (hz : o.retries + arrivalRetries p + z.length < limit.toNat) (hc : p.length = s.cfg.capacity) :
    exec (.readResponse e limit) s = .next (raiseFault .bufferOverrun
      (heard (stalled s e limit o p z (x.answers ++ rest)) rest (lastStatus x.answers) (rxEvents x.answers)
        (sumBytes (responseBytes o p) + x.value))) := by
  obtain ⟨n, hn⟩ := h.exec_eq
  have hfull : s.cfg.capacity ≤ (stalled s e limit o p z (x.answers ++ rest)).offset.toNat :=
    Nat.le_of_eq (hc.symm.trans h.offset_toNat.symm)
  rw [hn, rxP4Loop_stores (h.payloadOpen hz) (unstuff_symbol (rest := rest) rfl hx rfl),
    storePayload_overruns _ (by exact hfull), stalled_checksum]
  rfl

theorem arrivalAnswers_append (p q : List Arrival) : arrivalAnswers (p ++ q) = arrivalAnswers p ++ arrivalAnswers q :=
  List.flatMap_append

theorem arrivalEvents_append (p q : List Arrival) : arrivalEvents (p ++ q) = arrivalEvents p ++ arrivalEvents q :=
  List.flatMap_append

theorem arrivalRetries_append (p q : List Arrival) :
    arrivalRetries (p ++ q) = arrivalRetries p + arrivalRetries q := by
  rw [arrivalRetries, List.map_append, List.sum_append]
  rfl

end Sys2Proof.Machine

open Sys2Proof Sys2Proof.Machine

/-- Settles O40: with the budget used up Phase 4 makes no further round, and bytes are missing. -/
theorem exhaustedBudgetIsEncodingError : Obligations.ExhaustedBudgetIsEncodingError := by
  intro s e limit o p z rest ⟨hbusy, hphase, hidx, hpos, hcopy⟩ ho hp hlen hexp hc hz hne hlimit hsleep h
  have hz0 : 0 < z.length := List.length_pos_iff.2 hne
  have harrives : ArrivesShort s e limit o p z rest :=
    ⟨ho, hp, hlen, hexp, hc, hz, by omega, hlimit.le, hlimit.trans_le hsleep, by simpa using h⟩
  have hspent : limit - BitVec.ofNat 16 o.retries - BitVec.ofNat 16 (arrivalRetries p) - BitVec.ofNat 16 z.length =
      0 := BitVec.eq_of_toNat_eq (harrives.budget_toNat.trans (by rw [hlimit, Nat.sub_self]; rfl))
  refine ⟨_, harrives.exhausted hlimit, ?_, harrives.stored rfl rfl⟩
  simpa [fail, errorCode, endOperation, stalled, retried, arrived, opened, toPhase, responseBytes, sumBytes_append,
    hbusy, hphase, hidx, hpos, hcopy, hne, Nat.sub_sub, ← hlimit] using hspent

/-- Settles O41: the round of the error ends the operation. -/
theorem payloadErrorIsMissingStop : Obligations.PayloadErrorIsMissingStop := by
  intro s e limit o p z broken rest ⟨hbusy, hphase, hidx, hpos, hcopy⟩ ho hp hlen hexp hc hz hb hlimit hsleep h
  have harrives : ArrivesShort s e limit o p z (broken ++ rest) :=
    ⟨ho, hp, hlen, hexp, hc, hz, by omega, hlimit.le, hsleep, by simpa using h⟩
  refine ⟨_, harrives.broken hb hlimit, ?_, harrives.stored rfl rfl⟩
  simp [fail, errorCode, endOperation, heard, stalled, retried, arrived, opened, toPhase, lastStatus, hbusy, hphase,
    hidx, hpos, hcopy, BitVec.sub_sub, Nat.sub_sub, BitVec.ofNat_add]

/-- Settles O42: the byte is heard and then not stored. -/
theorem payloadBeyondCapacityIsOverrun : Obligations.PayloadBeyondCapacityIsOverrun := by
  intro s e limit o p last rest _ hfault ho hp hlast hlen hexp hc hlimit hsleep h
  obtain ⟨hretries, hsymbol⟩ := (Arrival.ok_iff last).1 hlast
  rw [arrivalRetries_append, arrivalRetries_cons, arrivalRetries_nil, Nat.add_zero, ← Nat.add_assoc] at hlimit hsleep
  have harrives : ArrivesShort s e limit o p last.retries (last.symbol.answers ++ rest) :=
    ⟨ho, hp, hlen, hexp, hc.le, hretries, by omega, hlimit.le, hsleep, by
      rw [h, arrivalAnswers_append]
      simp⟩
  refine ⟨_, harrives.overruns hsymbol hlimit hc, ?_, rfl, rfl, rfl, ?_, ?_, rfl, ?_, harrives.stored rfl rfl⟩
  · rw [raiseFault_fault]
    exact if_pos hfault
  · exact BitVec.zero_add _
  · simp [heard, responseBytes, sumBytes_append, Arrival.value, BitVec.add_assoc]
  · simp [heard, stalled, retried, arrived, opened, toPhase, arrivalEvents_append]
end

section
/-! PROOFS. A `read_response` whose payload arrives whole and whose end does not match it (42_decoder.md R91 to R93): a
wrong sum, a checksum byte or a stop delimiter that does not come. -/

namespace Sys2Proof.Machine

variable {s : State} {e : Byte} {limit : BitVec 16} {o : Opening} {p : List Arrival} {rest : List RxAnswer}

/-! ### The checksum byte and the stop delimiter -/

/-- Phase 5 on a checksum byte with which the sum is not 0xFF. -/
theorem rxP5Phase_rejects {x : RxSymbol} (hp : s.pos = .start) (hx : x.ok = true) (hsum : s.checksum + x.value ≠ 0xFF)
    (h : s.rxAnswers = x.answers ++ rest) :
    rxP5Phase s = .stop (fail .checksumMismatch
      (heard s rest (lastStatus x.answers) (rxEvents x.answers) (s.checksum + x.value))) := by
  rw [rxP5Phase, unstuff_symbol hp hx h]
  exact if_pos hsum

/-- Phase 5 without a checksum byte. -/
theorem rxP5Phase_breaks {c : List RxAnswer} (hp : s.pos = .start) (hc : BrokenSymbol c)
    (h : s.rxAnswers = c ++ rest) :
    rxP5Phase s = .stop (fail .missingStop (heard s rest (lastStatus c) (rxEvents c) s.checksum)) := by
  rw [rxP5Phase, unstuff_broken hp hc h]

/-- Phase 7 on anything but the stop delimiter. -/
theorem rxP7Phase_breaks {a : RxAnswer} (ha : a.status.toInt ≤ 0 ∨ a.data ≠ 0x7E) (h : s.rxAnswers = a :: rest) :
    rxP7Phase s = .stop (fail .missingStop (heard s rest a.status [.rx a] s.checksum)) := by
  rw [rxP7Phase, rxByte_got h]
  refine if_pos ?_
  rw [Bool.or_eq_true, noByteStatus_iff, bne_iff_ne]
  exact ha

theorem rxEvents_append (a b : List RxAnswer) : rxEvents (a ++ b) = rxEvents a ++ rxEvents b := List.map_append

/-! ### A whole payload -/

/-- What arrives is an opening and the whole payload it declares, within the budget. -/
structure ArrivesWhole (s : State) (e : Byte) (limit : BitVec 16) (o : Opening) (p : List Arrival)
    (rest : List RxAnswer) : Prop where
  opening : o.ok
  payload : ∀ a ∈ p, a.ok
  whole : p.length = o.hdr.dataLen.toNat
  expected : o.hdr.dataLen.toNat ≤ e.toNat
  fits : o.hdr.dataLen.toNat ≤ s.cfg.capacity
  budget : o.retries + arrivalRetries p < limit.toNat
  slept : o.retries + arrivalRetries p ≤ s.sleepAnswers
  answers : s.rxAnswers = o.answers ++ (arrivalAnswers p ++ rest)

/-- s when the opening and the payload have been heard, at the entry of Phase 5. -/
def collected (s : State) (e : Byte) (limit : BitVec 16) (o : Opening) (p : List Arrival) (rest : List RxAnswer) :
    State :=
  toPhase .rxP5 (arrived (toPhase .rxP4 (opened s e limit o (arrivalAnswers p ++ rest))) p rest)

theorem collected_checksum : (collected s e limit o p rest).checksum = sumBytes (responseBytes o p) :=
  (sumBytes_append _ _).symm

theorem ArrivesWhole.exec_eq (h : ArrivesWhole s e limit o p rest) :
    exec (.readResponse e limit) s = outcome (rxP5Phase (collected s e limit o p rest)) :=
  exec_readResponse_payload h.opening h.payload h.whole h.expected h.fits h.budget h.slept h.answers

/-- BUF holds the payload. -/
theorem ArrivesWhole.stored (h : ArrivesWhole s e limit o p rest) {t : State}
    (hb : t.buf = (collected s e limit o p rest).buf) (hr : t.resets = s.resets) :
    PayloadStored s t (p.map Arrival.value) :=
  payloadStored_putAll (by rw [List.length_map, h.whole]; exact h.fits) hb hr

/-- A frame with a wrong sum. -/
theorem ArrivesWhole.rejected {c : RxSymbol} (h : ArrivesWhole s e limit o p (c.answers ++ rest)) (hc : c.ok = true)
    (hsum : sumBytes (responseBytes o p ++ [c.value]) ≠ 0xFF) :
    exec (.readResponse e limit) s = .next (fail .checksumMismatch
      (heard (collected s e limit o p (c.answers ++ rest)) rest (lastStatus c.answers) (rxEvents c.answers)
        (sumBytes (responseBytes o p ++ [c.value])))) := by
  have hck : (collected s e limit o p (c.answers ++ rest)).checksum + c.value =
      sumBytes (responseBytes o p ++ [c.value]) := by
    rw [collected_checksum, sumBytes_append, sumBytes_singleton]
  rw [h.exec_eq, rxP5Phase_rejects (rest := rest) rfl hc (by rwa [hck]) rfl, hck]
  rfl

/-- A frame without its checksum byte. -/
theorem ArrivesWhole.brokenChecksum {c : List RxAnswer} (h : ArrivesWhole s e limit o p (c ++ rest))
    (hc : BrokenSymbol c) :
    exec (.readResponse e limit) s = .next (fail .missingStop
      (heard (collected s e limit o p (c ++ rest)) rest (lastStatus c) (rxEvents c)
        (sumBytes (responseBytes o p)))) := by
  rw [h.exec_eq, rxP5Phase_breaks (rest := rest) rfl hc rfl, collected_checksum]
  rfl

/-- A good frame without its stop delimiter. -/
theorem ArrivesWhole.brokenStop {c : RxSymbol} {a : RxAnswer}
    (h : ArrivesWhole s e limit o p (c.answers ++ (a :: rest))) (hc : c.ok = true)
    (hcv : c.value = checksumByte (responseBytes o p)) (hst : o.hdr.state &&& 0x7F = 0)
    (ha : a.status.toInt ≤ 0 ∨ a.data ≠ 0x7E) :
    exec (.readResponse e limit) s = .next (fail .missingStop (heard (toPhase .rxP7 (toPhase .rxP6
      (heard (collected s e limit o p (c.answers ++ (a :: rest))) (a :: rest) (lastStatus c.answers)
        (rxEvents c.answers) 0xFF))) rest a.status [.rx a] 0xFF)) := by
  have hsum : (collected s e limit o p (c.answers ++ (a :: rest))).checksum + c.value = 0xFF := by
    rw [collected_checksum, hcv]
    exact add_complement _
  rw [h.exec_eq, rxP5Phase_accepts (rest := a :: rest) rfl hc hsum rfl, rxP6Phase_accepts (by exact hst),
    rxP7Phase_breaks (rest := rest) ha rfl]
  rfl

/-! ### One wrong payload byte -/

/-- With one byte in the place of another, the sum of a frame is off by their difference. -/
theorem sumBytes_replaced {before after : List Byte} {b c : Byte} (v : Byte)
    (hc : c = checksumByte (before ++ [b] ++ after)) :
    sumBytes (before ++ [v] ++ after ++ [c]) = 0xFF + (v - b) := by
  have hgood := sumBytes_checksumByte (before ++ [b] ++ after)
  rw [← hc] at hgood
  rw [← hgood]
  simp only [sumBytes_append, sumBytes_singleton]
  ring

theorem sumBytes_replaced_ne {before after : List Byte} {b v c : Byte} (hne : v ≠ b)
    (hc : c = checksumByte (before ++ [b] ++ after)) : sumBytes (before ++ [v] ++ after ++ [c]) ≠ 0xFF := by
  rw [sumBytes_replaced v hc]
  exact fun h => hne (sub_eq_zero.1 (add_eq_left.1 h))

theorem flipBit_ne (b : Byte) {bit : Nat} (h : bit < 8) : b ^^^ (1#8 <<< bit) ≠ b := by
  interval_cases bit <;> simp

theorem invertBit5_ne (b : Byte) : invertBit5 b ≠ b := flipBit_ne b (bit := 5) (by decide)

/-- A reserved byte, its bit 5 inverted, is 0x20 more or less. -/
theorem invertBit5_sub {b : Byte} (h : reservedByte b = true) :
    invertBit5 b - b = 0x20 ∨ invertBit5 b - b = -0x20 := by
  simp only [reservedByte, Bool.or_eq_true, beq_iff_eq] at h
  rcases h with ((rfl | rfl) | rfl) | rfl <;> decide

/-- The symbol of a reserved byte, its marker lost to a no-data answer, arrives as the byte after the marker (R137). -/
theorem lostEscape_ok {b : Byte} {m z a : RxAnswer} (hb : reservedByte b = true) (hd : Delivers [m, a] (symbol b))
    (hz : z.status.toInt = 0) : (Arrival.mk [⟨some m, z⟩] ⟨[a], invertBit5 b⟩).ok = true := by
  obtain ⟨hdata, hpos⟩ := hd
  rw [symbol_reserved hb] at hdata
  obtain ⟨hm, ha⟩ : m.data = 0x7D ∧ a.data = invertBit5 b := by
    simpa [stuffMarker] using hdata
  obtain ⟨_, _, _, hplain⟩ := ne_of_not_reserved (reservedByte_invertBit5 hb)
  refine (Arrival.ok_iff _).2 ⟨fun r hr => ?_, (RxSymbol.ok_iff _).2 (.inl ⟨a, rfl, ?_, ?_, ha⟩)⟩
  · rw [List.mem_singleton.1 hr]
    simp [Retry.ok, hz, hm, hpos m List.mem_cons_self]
  · exact hpos a (List.mem_cons_of_mem _ List.mem_cons_self)
  · exact ha ▸ hplain

end Sys2Proof.Machine

open Sys2Proof Sys2Proof.Machine

/-- Settles O44: the flipped byte is another byte, so the sum is wrong. -/
theorem flippedPayloadBitIsChecksumMismatch : Obligations.FlippedPayloadBitIsChecksumMismatch := by
  intro s e limit o p sent k bit c rest _ ho hp hlen hexp hc hk hbit hval hcok hcv hlimit hsleep h
  have harrives : ArrivesWhole s e limit o p (c.answers ++ rest) :=
    ⟨ho, hp, hlen, hexp, hc, hlimit, hsleep, by simpa using h⟩
  refine ⟨_, harrives.rejected hcok ?_, rfl, rfl, rfl⟩
  have hgood : c.value =
      checksumByte (headerBytes o.hdr ++ sent.take k ++ [sent[k]] ++ sent.drop (k + 1)) := by
    rw [hcv]
    simp
  have hwrong := sumBytes_replaced_ne (flipBit_ne sent[k] hbit) hgood
  rw [responseBytes, hval, List.set_eq_take_append_cons_drop, if_pos hk]
  simpa using hwrong

/-- Settles O46: Phase 5 without the checksum byte, or Phase 7 after a good frame. -/
theorem unfinishedFrameIsMissingStop : Obligations.UnfinishedFrameIsMissingStop := by
  intro s e limit o p c last rest _ ho hp hlen hexp hc hlimit hsleep hend h
  rcases hend with ⟨rfl, hb⟩ | ⟨hcok, hst, a, rfl, ha⟩
  · have harrives : ArrivesWhole s e limit o p (last ++ rest) :=
      ⟨ho, hp, hlen, hexp, hc, hlimit, hsleep, by simpa using h⟩
    exact ⟨_, harrives.brokenChecksum hb, rfl, rfl, rfl, rfl, rfl, rfl⟩
  · have harrives : ArrivesWhole s e limit o p (c ++ (a :: rest)) :=
      ⟨ho, hp, hlen, hexp, hc, hlimit, hsleep, by simpa using h⟩
    refine ⟨_, harrives.brokenStop hcok rfl hst ha, rfl, rfl, rfl, rfl, rfl, ?_⟩
    exact (List.append_assoc _ (rxEvents c) _).trans (congrArg _ (rxEvents_append c [a]).symm)

/-- Settles O47: the byte stored is the byte sent with bit 5 inverted, so the sum is off by 0x20. -/
theorem lostEscapeIsChecksumMismatch : Obligations.LostEscapeIsChecksumMismatch := by
  intro s e limit o before after x b m z a c rest _ ho hbefore hafter hb hd hz hx hlen hexp hc hcok hcv hlimit hsleep h
  have hok : ∀ y ∈ before ++ [x] ++ after, y.ok = true := by
    intro y hy
    rcases List.mem_append.1 hy with hy | hy
    · rcases List.mem_append.1 hy with hy | hy
      · exact hbefore y hy
      · rw [List.mem_singleton.1 hy, hx]
        exact lostEscape_ok hb hd hz
    · exact hafter y hy
  have hvalues : (before ++ [x] ++ after).map Arrival.value =
      before.map Arrival.value ++ [invertBit5 b] ++ after.map Arrival.value := by
    rw [List.map_append, List.map_append, hx]
    rfl
  have harrives : ArrivesWhole s e limit o (before ++ [x] ++ after) (c.answers ++ rest) :=
    ⟨ho, hok, by rw [List.length_append, List.length_append]; exact hlen, hexp, hc, hlimit, hsleep, by simpa using h⟩
  have hbytes : responseBytes o (before ++ [x] ++ after) ++ [c.value] =
      headerBytes o.hdr ++ before.map Arrival.value ++ [invertBit5 b] ++ after.map Arrival.value ++ [c.value] := by
    rw [responseBytes, hvalues]
    simp
  have hwrong := sumBytes_replaced_ne (invertBit5_ne b) hcv
  have hoff := sumBytes_replaced (invertBit5 b) hcv
  rw [← hbytes] at hwrong hoff
  have hbyte : bufByte (collected s e limit o (before ++ [x] ++ after) (c.answers ++ rest)) before.length =
      invertBit5 b := by
    obtain ⟨hstored, _⟩ := harrives.stored rfl rfl
    rw [hvalues] at hstored
    simpa using hstored before.length (by simp)
  refine ⟨_, harrives.rejected hcok hwrong, rfl, rfl, rfl, rfl, hbyte,
    (invertBit5_sub hb).imp (fun hup => ?_) fun hdown => ?_⟩
  · exact hoff.trans (by rw [hup])
  · exact hoff.trans (by rw [hdown]; rfl)
end

section
/-! PROOFS. What a `read_response` can do at all, ended or waiting (42_decoder.md R86, R95): reads and sleeps, counted,
and no byte of BUF from OFFSET upward. -/

namespace Sys2Proof.Machine

/-- The `read_response` accepted in s has come to u. Of its budget every Sleep(1) has cost a unit; its reads are at most
two for each unit spent and c more. -/
structure Receiving (s : State) (e : Byte) (limit : BitVec 16) (c : Nat) (u : State) : Prop where
  io : u.io = .reader
  explen : u.explen = e
  dataPort : u.dataPort = s.dataPort
  txAnswers : u.txAnswers = s.txAnswers
  buf : ∀ a, u.offset.toNat ≤ a → bufByte u a = bufByte s a
  trace : ∃ new, u.events = s.events ++ new ∧ txStatusesOf new = [] ∧
    sleepsIn new + u.budget.toNat ≤ limit.toNat ∧
    (rxAnswersOf new).length + 2 * u.budget.toNat ≤ 2 * limit.toNat + c

/-- The step has stopped within the bound of R95. -/
def WithinBound (s : State) (e : Byte) (limit : BitVec 16) (t : State) : Prop :=
  Receiving s e limit (2 * t.hdr.dataLen.toNat + 12) t

variable {s u : State} {e : Byte} {limit : BitVec 16} {c d : Nat}

theorem Receiving.mono (h : Receiving s e limit c u) (hcd : c ≤ d) : Receiving s e limit d u := by
  obtain ⟨new, hev, htx, hsl, hrx⟩ := h.trace
  exact { h with trace := ⟨new, hev, htx, hsl, hrx.trans (Nat.add_le_add_left hcd _)⟩ }

theorem receiving_enterResponse : Receiving s e limit 0 (enterResponse e limit s) where
  io := rfl
  explen := rfl
  dataPort := rfl
  txAnswers := rfl
  buf := fun _ _ => rfl
  trace := ⟨[], (List.append_nil _).symm, rfl, Nat.le_of_eq (Nat.zero_add _), Nat.le_of_eq (Nat.zero_add _)⟩

theorem Receiving.within (h : Receiving s e limit c u) (hc : c ≤ 2 * u.hdr.dataLen.toNat + 12) :
    WithinBound s e limit u := h.mono hc

theorem Receiving.failed (h : Receiving s e limit c u) (hc : c ≤ 2 * u.hdr.dataLen.toNat + 12) (k : ErrorKind) :
    WithinBound s e limit (fail k u) := { h.mono hc with }

/-! ### Reads and sleeps -/

theorem Receiving.rxByte (h : Receiving s e limit c u) (q : Pos) :
    Gives (fun _ => Receiving s e limit (c + 1)) u (rxByte q u) := by
  rcases hrx : u.rxAnswers with _ | ⟨a, rest⟩
  · rw [rxByte_waits hrx]
    exact { h.mono (Nat.le_succ c) with }
  · rw [rxByte_got hrx]
    obtain ⟨new, hev, htx, hsl, hrx⟩ := h.trace
    refine { h with trace := ⟨new ++ [.rx a], ?_, ?_, ?_, ?_⟩ }
    · rw [← List.append_assoc, ← hev]
      rfl
    · rw [txStatusesOf_append, htx]
      rfl
    · rw [sleepsIn_append]
      exact hsl
    · rw [rxAnswersOf_append, List.length_append]
      show _ + 1 + 2 * u.budget.toNat ≤ _
      omega

theorem Receiving.unstuffSecond (h : Receiving s e limit c u) :
    Gives (fun _ => Receiving s e limit (c + 1)) u (unstuffSecond u) := by
  have hr := h.rxByte .rxSecond
  unfold Machine.unstuffSecond
  cases hu : Machine.rxByte .rxSecond u with
  | waits t => rwa [hu] at hr
  | got b t =>
    rw [hu] at hr
    dsimp only
    split
    · exact hr
    · exact { hr with }

/-- A symbol is two reads at most. -/
theorem Receiving.unstuffFirst (h : Receiving s e limit c u) :
    Gives (fun _ => Receiving s e limit (c + 2)) u (unstuffFirst u) := by
  have hr := h.rxByte .start
  unfold Machine.unstuffFirst
  cases hu : Machine.rxByte .start u with
  | waits t =>
    rw [hu] at hr
    exact Receiving.mono hr (Nat.le_succ _)
  | got b t =>
    rw [hu] at hr
    dsimp only
    split
    · exact Receiving.mono hr (Nat.le_succ _)
    · split
      · exact Receiving.unstuffSecond hr
      · exact { Receiving.mono hr (Nat.le_succ _) with }

/-- Everything an un-stuff step can be, its reads counted. -/
theorem Receiving.unstuff (h : Receiving s e limit c u) (hp : u.pos = .start) :
    (∃ t, Machine.unstuff u = .waits t ∧ Receiving s e limit (c + 2) t ∧ RxMoved u t) ∨
    ∃ v t, Machine.unstuff u = .got v t ∧ Receiving s e limit (c + 2) t ∧ RxMoved u t ∧ t.pos = .start ∧
      t.budget = u.budget := by
  have hr := h.unstuffFirst
  rw [← unstuff_start hp] at hr
  rcases unstuff_cases u (.inl hp) with ⟨t, hu, hm, _⟩ | ⟨v, t, hu, hm, hpos, hb⟩
  · rw [hu] at hr
    exact .inl ⟨t, hu, hr, hm⟩
  · rw [hu] at hr
    exact .inr ⟨v, t, hu, hr, hm, hpos, hb⟩

/-- A Sleep(1) and its unit of BUDGET, whichever comes first. -/
theorem Receiving.slept (h : Receiving s e limit (c + 2) u) (hb : 0 < u.budget.toNat) (n : Nat) :
    Receiving s e limit c
      { spendBudget u with sleepAnswers := n, events := u.events ++ [.sleep], pos := .start } := by
  obtain ⟨new, hev, htx, hsl, hrx⟩ := h.trace
  have hspent := spendBudget_budget_toNat hb
  refine { h with trace := ⟨new ++ [.sleep], ?_, ?_, ?_, ?_⟩ }
  · rw [← List.append_assoc, ← hev]
  · rw [txStatusesOf_append, htx]
    rfl
  · rw [sleepsIn_append]
    show sleepsIn new + 1 + (spendBudget u).budget.toNat ≤ _
    omega
  · rw [rxAnswersOf_append, List.length_append]
    show _ + 0 + 2 * (spendBudget u).budget.toNat ≤ _
    omega

/-- A unit of BUDGET whose Sleep(1) is not answered. -/
theorem Receiving.spent (h : Receiving s e limit c u) (hb : 0 < u.budget.toNat) :
    Receiving s e limit c { spendBudget u with pos := .sleeping } := by
  obtain ⟨new, hev, htx, hsl, hrx⟩ := h.trace
  have hspent := spendBudget_budget_toNat hb
  refine { h with trace := ⟨new, hev, htx, ?_, ?_⟩ }
  · show sleepsIn new + (spendBudget u).budget.toNat ≤ _
    omega
  · show _ + 2 * (spendBudget u).budget.toNat ≤ _
    omega

/-! ### The phases of `read_response`, last first -/

theorem rxP7Phase_within (h : Receiving s e limit (2 * u.hdr.dataLen.toNat + 11) u) :
    Reaches (fun _ => False) (WithinBound s e limit) (rxP7Phase u) := by
  have hr := h.rxByte .start
  unfold rxP7Phase
  rcases rxByte_cases .start u with hu | ⟨b, t, hu, hm, _⟩
  · rw [hu] at hr ⊢
    exact hr
  · rw [hu] at hr ⊢
    obtain ⟨_, _, _, _, _, _, _, rfl⟩ := hm
    dsimp only
    split
    · exact Receiving.failed hr (Nat.le_refl _) _
    · exact { hr with }

theorem rxP6Phase_within (h : Receiving s e limit (2 * u.hdr.dataLen.toNat + 11) u) :
    Reaches (fun _ => False) (WithinBound s e limit) (rxP6Phase u) := by
  unfold rxP6Phase
  split
  · exact h.failed (by omega) _
  · exact rxP7Phase_within (u := toPhase .rxP7 u) { h with }

theorem rxP5Phase_within (h : Receiving s e limit (2 * u.hdr.dataLen.toNat + 9) u) (hp : u.pos = .start) :
    Reaches (fun _ => False) (WithinBound s e limit) (rxP5Phase u) := by
  unfold rxP5Phase
  rcases h.unstuff hp with ⟨t, hu, ht, hm⟩ | ⟨v, t, hu, ht, hm, _⟩
  · rw [hu]
    obtain ⟨_, _, _, _, _, _, _, rfl⟩ := hm
    exact ht.within (by simp)
  · rw [hu]
    obtain ⟨_, _, _, _, _, _, _, rfl⟩ := hm
    cases v with
    | none => exact ht.failed (by simp) _
    | some v =>
      dsimp only
      split
      · exact ht.failed (by simp) _
      · exact rxP6Phase_within (u := toPhase .rxP6 _) { ht with }

/-- Between two payload symbols: nine reads before the payload, and two for each byte stored. -/
def PayloadCounted (s : State) (e : Byte) (limit : BitVec 16) (u : State) : Prop :=
  Receiving s e limit (2 * u.offset.toNat + 9) u ∧ u.offset.toNat ≤ u.hdr.dataLen.toNat ∧ u.pos = .start

theorem storePayload_counted (v : Byte) (h : Receiving s e limit (2 * u.offset.toNat + 11) u)
    (hlt : u.offset.toNat < u.hdr.dataLen.toNat) (hp : u.pos = .start) :
    Reaches (PayloadCounted s e limit) (WithinBound s e limit) (storePayload v u) := by
  have ho : (u.offset + 1).toNat = u.offset.toNat + 1 := by
    have := u.hdr.dataLen.isLt
    exact toNat_add_one_of_lt hlt (by omega)
  rcases Nat.lt_or_ge u.offset.toNat u.cfg.capacity with hc | hc
  · rw [storePayload_fits v hc]
    refine ⟨{ h.mono ?_ with buf := fun a ha => ?_ }, ?_, hp⟩
    · show _ ≤ 2 * (u.offset + 1).toNat + 9
      omega
    · change (u.offset + 1).toNat ≤ a at ha
      exact (bufByte_setByte_other u.offset.toNat a v u (by omega)).trans (h.buf a (by omega))
    · show (u.offset + 1).toNat ≤ u.hdr.dataLen.toNat
      omega
  · rw [storePayload, if_pos hc]
    exact { h.mono (show _ ≤ 2 * u.hdr.dataLen.toNat + 12 by omega) with }

theorem rxP4Loop_counted (n : Nat) (h : PayloadCounted s e limit u) :
    Reaches (PayloadCounted s e limit) (WithinBound s e limit) (rxP4Loop n u) := by
  induction n generalizing u with
  | zero => exact h
  | succ n ih =>
    by_cases hopen : PayloadOpen u
    case neg =>
      rw [rxP4Loop_closed hopen]
      exact h
    obtain ⟨hr, _, hp⟩ := h
    have ⟨hlt, hbudget⟩ := hopen
    have hbound : 2 * u.offset.toNat + 9 + 2 ≤ 2 * u.hdr.dataLen.toNat + 12 := by omega
    rcases hr.unstuff hp with ⟨t, hu, ht, hm⟩ | ⟨v, t, hu, ht, hm, hpos, hb⟩
    · rw [rxP4Loop_waits hopen hu]
      obtain ⟨_, _, _, _, _, _, _, rfl⟩ := hm
      exact ht.within hbound
    rw [← hb] at hbudget
    obtain ⟨_, _, _, _, _, _, _, rfl⟩ := hm
    cases v with
    | some v =>
      rw [rxP4Loop_stores hopen hu]
      exact Reaches.andThen (storePayload_counted v (by exact ht) (by exact hlt) hpos) fun x hx => ih hx
    | none =>
      rw [rxP4Loop_silent hopen hu]
      split
      · exact ht.failed hbound _
      · rcases sleepOne_event (spendBudget _) with hs | ⟨n, hs⟩
        · rw [hs]
          exact (ht.spent hbudget).within hbound
        · rw [hs]
          exact ih ⟨ht.slept hbudget n, Nat.le_of_lt hlt, rfl⟩

theorem rxP4Phase_within (h : PayloadCounted s e limit u) :
    Reaches (fun _ => False) (WithinBound s e limit) (rxP4Phase u) := by
  have ⟨_, _, hp⟩ := h
  rw [rxP4Phase_awake (.inl hp)]
  refine (rxP4Loop_counted _ h).andThen fun t ⟨ht, hle, htp⟩ => ?_
  unfold rxP4Exit
  split
  · exact ht.failed (by omega) _
  · exact rxP5Phase_within (u := toPhase .rxP5 t) { ht.mono (show _ ≤ 2 * t.hdr.dataLen.toNat + 9 by omega) with } htp

/-- Before the payload: c reads, and OFFSET = 0. -/
def HeaderCounted (s : State) (e : Byte) (limit : BitVec 16) (c : Nat) (u : State) : Prop :=
  Receiving s e limit c u ∧ u.offset = 0 ∧ u.pos = .start

theorem rxP3Phase_within (h : HeaderCounted s e limit 9 u) :
    Reaches (fun _ => False) (WithinBound s e limit) (rxP3Phase u) := by
  obtain ⟨hr, ho, hp⟩ := h
  have ho0 : u.offset.toNat = 0 := by simp [ho]
  unfold rxP3Phase
  split
  · exact hr.failed (by omega) _
  · exact rxP4Phase_within (u := toPhase .rxP4 u)
      ⟨{ hr.mono (show _ ≤ 2 * u.offset.toNat + 9 by omega) with }, ho0 ▸ Nat.zero_le _, hp⟩

/-- Two reads at most for each header byte. -/
theorem rxP2Loop_counted (n : Nat) (h : HeaderCounted s e limit c u) (hc : c + 2 * n ≤ 9) :
    Reaches (HeaderCounted s e limit 9) (WithinBound s e limit) (rxP2Loop n u) := by
  obtain ⟨hr, ho, hp⟩ := h
  induction n generalizing u c with
  | zero => exact ⟨hr.mono hc, ho, hp⟩
  | succ n ih =>
    unfold rxP2Loop
    rcases hr.unstuff hp with ⟨t, hu, ht, _⟩ | ⟨v, t, hu, ht, hm, hpos, _⟩
    · rw [hu]
      exact ht.within (by omega)
    rw [hu]
    obtain ⟨_, _, _, _, _, _, _, rfl⟩ := hm
    cases v with
    | none => exact ht.failed (by omega) _
    | some v => exact ih (by omega) { ht with } ho hpos

theorem rxP2Phase_within (h : HeaderCounted s e limit 1 u) :
    Reaches (fun _ => False) (WithinBound s e limit) (rxP2Phase u) :=
  (rxP2Loop_counted _ h (by omega)).andThen fun t ⟨ht, hto, htp⟩ =>
    rxP3Phase_within (u := toPhase .rxP3 t) ⟨{ ht with }, hto, htp⟩

/-- A no-data answer of Phase 1 is one read, paid by its unit. -/
theorem rxP1Loop_counted (n : Nat) (h : Receiving s e limit 0 u) (ho : u.offset = 0) (hn : u.budget.toNat = n) :
    Reaches (HeaderCounted s e limit 1) (WithinBound s e limit) (rxP1Loop n u) := by
  induction n generalizing u with
  | zero => exact h.failed (Nat.zero_le _) _
  | succ n ih =>
    have hr := h.rxByte .start
    unfold rxP1Loop
    rcases rxByte_cases .start u with hu | ⟨b, t, hu, hm, hpos, hb, _⟩
    · rw [hu] at hr ⊢
      exact Receiving.within hr (by omega)
    rw [hu] at hr ⊢
    have hbudget : 0 < t.budget.toNat := by rw [hb]; omega
    have hto : t.offset = 0 := by
      obtain ⟨_, _, _, _, _, _, _, rfl⟩ := hm
      exact ho
    dsimp only
    split
    · exact Receiving.failed hr (by omega) _
    split
    · rcases sleepOne_event t with hs | ⟨m, hs⟩
      · rw [hs]
        exact { Receiving.within hr (by omega) with }
      · rw [hs]
        refine ih (Receiving.slept (Receiving.mono hr (Nat.le_succ 1)) hbudget m) hto ?_
        have := spendBudget_budget_toNat hbudget
        show (spendBudget t).budget.toNat = n
        rw [this, hb]
        omega
    split
    · exact Receiving.failed hr (by omega) _
    · exact ⟨hr, hto, hpos⟩

/-- Whatever the transport answers, a `read_response` stays within its bound. -/
theorem exec_readResponse_within {t : State} (h : exec (.readResponse e limit) s = .next t) :
    WithinBound s e limit t := by
  refine Reaches.outcome (f := rxP1Phase (enterResponse e limit s)) ?_ h
  rw [rxP1Phase_awake rfl]
  exact (rxP1Loop_counted _ receiving_enterResponse rfl rfl).andThen fun u ⟨hu, huo, hup⟩ =>
    rxP2Phase_within (u := toPhase .rxP2 u) ⟨{ hu with }, huo, hup⟩

end Sys2Proof.Machine

open Sys2Proof Sys2Proof.Machine

/-- Settles O49: the reads and sleeps are counted through the phases. -/
theorem readResponseEventBounds : Obligations.ReadResponseEventBounds := by
  intro s t e limit h
  obtain ⟨new, hev, htx, hsleeps, hreads⟩ := (exec_readResponse_within h).trace
  exact ⟨new, hev, by omega, by omega, htx⟩

/-- Settles O51, by the same walk through the phases and by what every operation leaves alone. -/
theorem readResponseFrame : Obligations.ReadResponseFrame := by
  intro s t e limit h
  have hwithin := exec_readResponse_within h
  have hevolves := exec_evolves _ _ _ h
  exact ⟨hevolves.host, hwithin.dataPort, hwithin.txAnswers, hevolves.resetInput, hevolves.resets, hevolves.cfg,
    hwithin.io, hwithin.explen, hwithin.buf⟩
end

section
/-! PROOFS. A `read_response` that Phase 3, 5 or 6 refuses (42_decoder.md R89, R91, R92): a declared length above the
expected one, a wrong sum, a sensor error. -/

namespace Sys2Proof.Machine

variable {s : State} {e : Byte} {limit : BitVec 16} {o : Opening} {p : List Arrival} {rest : List RxAnswer}

/-- Phase 3 on a declared length above the expected one. -/
theorem rxP3Phase_rejects (h : s.explen.toNat < s.hdr.dataLen.toNat) :
    rxP3Phase s = .stop (fail .frameTooLong s) := if_pos h

/-- Phase 6 with a sensor error. -/
theorem rxP6Phase_rejects (hst : s.hdr.state &&& 0x7F ≠ 0) : rxP6Phase s = .stop (fail .executionFailure s) :=
  if_pos (bne_iff_ne.2 hst)

/-- A declared length above the expected one. -/
theorem exec_readResponse_tooLong (ho : o.ok) (hlong : e.toNat < o.hdr.dataLen.toNat)
    (hlimit : o.retries < limit.toNat) (hsleep : o.retries ≤ s.sleepAnswers) (h : s.rxAnswers = o.answers ++ rest) :
    exec (.readResponse e limit) s = .next (fail .frameTooLong (opened s e limit o rest)) := by
  rw [exec_readResponse_opening ho hlimit hsleep h, rxP3Phase_rejects (by exact hlong)]
  rfl

/-- A good frame with a sensor error. -/
theorem ArrivesWhole.sensorError {c : RxSymbol} (h : ArrivesWhole s e limit o p (c.answers ++ rest))
    (hc : c.ok = true) (hcv : c.value = checksumByte (responseBytes o p)) (hst : o.hdr.state &&& 0x7F ≠ 0) :
    exec (.readResponse e limit) s = .next (fail .executionFailure (toPhase .rxP6
      (heard (collected s e limit o p (c.answers ++ rest)) rest (lastStatus c.answers) (rxEvents c.answers)
        0xFF))) := by
  have hsum : (collected s e limit o p (c.answers ++ rest)).checksum + c.value = 0xFF := by
    rw [collected_checksum, hcv]
    exact add_complement _
  rw [h.exec_eq, rxP5Phase_accepts (rest := rest) rfl hc hsum rfl, rxP6Phase_rejects (by exact hst)]
  rfl

end Sys2Proof.Machine

open Sys2Proof Sys2Proof.Machine

/-- Settles O39: Phase 3 follows the header; no length byte is above 255. -/
theorem longResponseIsFrameTooLong : Obligations.LongResponseIsFrameTooLong := by
  intro s e limit o rest ⟨hbusy, hphase, hidx, hpos, hcopy⟩ ho hlong hlimit hsleep h
  constructor
  · rintro rfl
    exact absurd hlong (Nat.not_lt.2 (Nat.le_of_lt_succ o.hdr.dataLen.isLt))
  · rw [exec_readResponse_tooLong ho hlong hlimit hsleep h]
    simp [fail, errorCode, endOperation, opened, lastStatus, hbusy, hphase, hidx, hpos, hcopy]

/-- Settles O43: Phase 5 tests the sum before Phase 6 looks at the state byte. -/
theorem wrongSumIsChecksumMismatch : Obligations.WrongSumIsChecksumMismatch := by
  intro s e limit o p c rest _ ho hp hlen hexp hc hcok hsum hlimit hsleep h
  have harrives : ArrivesWhole s e limit o p (c.answers ++ rest) :=
    ⟨ho, hp, hlen, hexp, hc, hlimit, hsleep, by simpa using h⟩
  exact ⟨_, harrives.rejected hcok hsum, rfl, rfl, rfl, rfl, rfl, rfl, rfl⟩

/-- Settles O45: the sum is right, and Phase 6 ends the operation before Phase 7 reads. -/
theorem sensorErrorIsExecutionFailure : Obligations.SensorErrorIsExecutionFailure := by
  intro s e limit o p c rest _ ho hp hlen hexp hc hst hcok hcv hlimit hsleep h
  have harrives : ArrivesWhole s e limit o p (c.answers ++ rest) :=
    ⟨ho, hp, hlen, hexp, hc, hlimit, hsleep, by simpa using h⟩
  exact ⟨_, harrives.sensorError hcok hcv hst, rfl, rfl, rfl, rfl, rfl, rfl, rfl, rfl⟩
end

section
/-! PROOFS. The idle block with nothing presented (70_reset_and_hazards.md R129), and the stuff marker that a
no-data answer loses (R137). -/

namespace Sys2Proof.Machine

/-- A payload byte whose stuff marker a no-data answer has lost: one retry, and then the byte after the marker as a
symbol of its own, not un-stuffed. -/
def lostMarker (m z a : RxAnswer) : Arrival := ⟨[⟨some m, z⟩], ⟨[a], a.data⟩⟩

theorem lostMarker_ok {m z a : RxAnswer} (hm : Delivers [m] [0x7D]) (hz : z.status.toInt = 0)
    (hpos : 0 < a.status.toInt) (hplain : a.data ≠ 0x7D) : (lostMarker m z a).ok = true := by
  obtain ⟨hdata, hmpos⟩ := hm
  have hretry : Retry.ok ⟨some m, z⟩ = true := by
    simp [Retry.ok, hz, List.singleton_inj.1 hdata, hmpos m (List.mem_singleton_self _)]
  exact (Arrival.ok_iff _).2 ⟨fun r hr => List.mem_singleton.1 hr ▸ hretry,
    (RxSymbol.ok_iff _).2 (.inl ⟨a, rfl, hpos, hplain, rfl⟩)⟩

end Sys2Proof.Machine

open Sys2Proof Sys2Proof.Machine

/-- Settles O13: the fetch finds no reset, no operation in progress and no move of the host. -/
theorem idleBlockWaits : Obligations.IdleBlockWaits := fun _ hbusy hreset hhost => step_nothing hreset hbusy hhost

/-- Settles O48: the three answers are one arrival of Phase 4, whose value is the byte after the lost marker. -/
theorem lostEscapeStoresTheRawByte : Obligations.LostEscapeStoresTheRawByte := by
  intro s n m z a rest hp ho hc hb hs hm hz hpos hplain h
  exact ⟨arrived s [lostMarker m z a] rest,
    rxP4Loop_arrival n (a := lostMarker m z a) hp (lostMarker_ok hm hz hpos hplain) ho hc hb hs h,
    bufByte_setByte_same s.offset.toNat a.data s, rfl,
    congrArg (s.checksum + ·) (sumBytes_singleton a.data), rfl, rfl, rfl⟩
end
